-- ==== Sys2Proof/Word.lean ====
section
/-! DEFINITION. The words at the block's ports (30_encoding.md R51 to R53), the byte, and the Message format (R56). -/

namespace Sys2Proof

/-- The addressable unit of the FIFO storage and the width of a PUSH and a POP (20_memory.md R30, R33). -/
abbrev Byte := BitVec 8

/-- One sample of the input ports: a format C word at an `EdgeC` (R51), a format P word at an `EdgeP` (R52),
or the level of the reset pin (format R, R53). -/
inductive PortWord where
  | c (w : BitVec 4)
  | p (w : BitVec 9)
  | r (w : BitVec 1)
  deriving DecidableEq, Repr, Inhabited

/-- One event at the block's ports: the word, and the outcome of that edge's synchroniser draw (41_bq.md R98;
`stale` is the `[stale]` of the trace syntax, 30_encoding.md R64). -/
structure EdgeIn where
  word : PortWord
  stale : Bool
  deriving DecidableEq, Repr, Inhabited

/-- The two events of the direction lookup (40_qdec.md R76). -/
inductive Dir where
  | increment
  | decrement
  deriving DecidableEq, Repr

/-- The Message QDEC presents at its event ports (30_encoding.md R56): 1, 2 and 8 bytes. Data byte `i` is bits
`8 * i + 7` down to `8 * i` of `data`. -/
structure Message where
  domain : BitVec 8
  id : BitVec 16
  data : BitVec 64
  deriving DecidableEq, Repr

end Sys2Proof
end

