-- ==== Sys2Proof/Config.lean ====
section
/-! DEFINITION. The implementation parameters (00_scope.md R6) as one record, and the free stream of the
environment's edges. The quantities R6 derives from the parameters are in Machine/Params.lean. -/

namespace Sys2Proof

/-- The byte orders the open parameter `MSG_ID_BYTE_ORDER` chooses from (20_memory.md R31). -/
inductive ByteOrder where
  | little
  | big
  deriving DecidableEq, Repr

/-- The parameters of R6, each with the default R6 gives it. Statements quantify over all of them.
`debounce_ns` is fixed at its default by R6, and `Config.valid` (Machine/Params.lean) pins it; it is a field so that the
spec's own vectors with a shorter window can be written down (log 13).
`msg_id_byte_order` is read by no rule and R6 gives it no default: `none`. DESIGN CHOICE (log 3, log 8). -/
structure Config where
  debounce_ns : Nat := 3000000
  f_clk_c_hz : Nat := 1000000
  dir_from_10 : Option Dir := some .increment
  dir_from_01 : Option Dir := some .decrement
  dir_from_11 : Option Dir := none
  fifo_depth : Nat := 1024
  domain_canbus : BitVec 8 := 0x00#8
  domain_local : BitVec 8 := 0x01#8
  id_this_node_is_leader : BitVec 16 := 0x0000#16
  id_this_node_is_follower : BitVec 16 := 0x0001#16
  id_knob_increment : BitVec 16 := 0x0002#16
  id_knob_decrement : BitVec 16 := 0x0003#16
  id_button_press : BitVec 16 := 0x0004#16
  id_button_release : BitVec 16 := 0x0005#16
  id_identify_leader_follower : BitVec 16 := 0x0006#16
  msg_id_byte_order : Option ByteOrder := none
  deriving DecidableEq, Repr

/-- The configuration of the defaults of R6. -/
def Config.default : Config := {}

/-- FREE VALUE (log 1): the environment's edges where State lists none, the `n`-th of them `freeEdge n`. Nothing
constrains it: which clock ticks, the word at the ports and the draw (93_implementation_defined.md V4, V9, V10). -/
opaque Config.freeEdge : Nat → EdgeIn

end Sys2Proof
end

