-- ==== Sys2Proof/Syntax.lean ====
section
/-! DEFINITION. The seven operations of AKB-1 (30_encoding.md R54, spec/opcode_table.json), the slot each belongs
to, and the operations one port word carries. -/

namespace Sys2Proof

/-- One constructor per row of the operation table. -/
inductive Instr where
  /-- RESET (70_reset_and_hazards.md R130). -/
  | reset
  /-- QSTEP a,b: evaluate the decoder on the two levels (40_qdec.md R74). -/
  | qstep (a b : Bool)
  /-- QNOP: one `clk_c` cycle without an evaluation (40_qdec.md R75). -/
  | qnop
  /-- POP (41_bq.md R95). -/
  | pop
  /-- RNOP: an `EdgeC` at which the consumer does not poll (41_bq.md R96). -/
  | rnop
  /-- PUSH d (41_bq.md R92). -/
  | push (d : Byte)
  /-- WNOP: an `EdgeP` at which the producer has no byte (41_bq.md R93). -/
  | wnop
  deriving DecidableEq, Repr

/-- The slots of the operation map R54. -/
inductive Slot where
  | reset
  | qdec
  | read
  | write
  deriving DecidableEq, Repr

/-- What one port word carries: two operations at an `EdgeC` (R51), one at an `EdgeP` (R52), RESET (R53). This is
a line of the trace syntax R64 less its draw. -/
inductive Line where
  | c (qop rop : Instr)
  | p (wop : Instr)
  | r (op : Instr)
  deriving DecidableEq, Repr

/-- Why a word carries no operation. -/
inductive Reject where
  /-- The format R word 0: "no reset" (R53; 95_test_vectors.md part 2). -/
  | resetNotAsserted
  /-- A number too large for the format's word: no such word exists at the ports (R63). -/
  | noSuchWord
  deriving DecidableEq, Repr

end Sys2Proof
end

