-- ==== Sys2Proof/WellFormed.lean ====
section
/-! DEFINITION. Which operations a port word may carry: each slot holds an operation of its own set (30_encoding.md
R54), so no line holds two QSTEPs, two POPs or two PUSHes (60_exceptions.md R122). -/

namespace Sys2Proof

/-- The slot of an operation (R54). -/
def Instr.slot : Instr → Slot
  | .reset => .reset
  | .qstep _ _ => .qdec
  | .qnop => .qdec
  | .pop => .read
  | .rnop => .read
  | .push _ => .write
  | .wnop => .write

/-- A line is well formed when each of its operations belongs to the slot it stands in. Every `Instr` is well
formed by its type: R62, no operand value is illegal. -/
def Line.wf : Line → Bool
  | .c qop rop => decide (qop.slot = .qdec) && decide (rop.slot = .read)
  | .p wop => decide (wop.slot = .write)
  | .r op => decide (op.slot = .reset)

end Sys2Proof
end

