-- ==== Sys2Proof/Decode.lean ====
section
/-! DEFINITION. The decoder: total on port words, rejecting by name (30_encoding.md R51 to R54, R62); and the
encoder. A port word is the whole instruction: the block fetches no bytes (10_state.md R11). -/

namespace Sys2Proof

/-- The QDEC slot of a format C word: bit 3 `step`, bit 2 `level_a`, bit 1 `level_b` (R51, R54). -/
def qdecOp (w : BitVec 4) : Instr :=
  if w.getLsbD 3 then .qstep (w.getLsbD 2) (w.getLsbD 1) else .qnop

/-- The read slot of a format C word: bit 0 `rd_en` (R51, R54). -/
def readOp (w : BitVec 4) : Instr :=
  if w.getLsbD 0 then .pop else .rnop

/-- The write slot, all of a format P word: bit 8 `wr_en`, bits 7:0 `wr_data` (R52, R54). -/
def writeOp (w : BitVec 9) : Instr :=
  if w.getLsbD 8 then .push (w.extractLsb' 0 8) else .wnop

/-- The operations a port word carries. Only the format R word 0 carries none (R53, R62). -/
def decode : PortWord → Except Reject Line
  | .c w => .ok (.c (qdecOp w) (readOp w))
  | .p w => .ok (.p (writeOp w))
  | .r w => if w = 1#1 then .ok (.r .reset) else .error .resetNotAsserted

/-- A format C word from its fields, `step` in the high bit (R51). -/
def wordC (step level_a level_b rd_en : Bool) : BitVec 4 :=
  BitVec.ofBool step ++ BitVec.ofBool level_a ++ BitVec.ofBool level_b ++ BitVec.ofBool rd_en

/-- A format P word from its fields, `wr_en` in the high bit (R52). -/
def wordP (wr_en : Bool) (wr_data : Byte) : BitVec 9 :=
  BitVec.ofBool wr_en ++ wr_data

/-- The word of one operation; an omitted slot is its NOP and bits that are not read are 0 (R64). -/
def encode : Instr → PortWord
  | .reset => .r 1#1
  | .qstep a b => .c (wordC true a b false)
  | .qnop => .c (wordC false false false false)
  | .pop => .c (wordC false false false true)
  | .rnop => .c (wordC false false false false)
  | .push d => .p (wordP true d)
  | .wnop => .p (wordP false 0#8)

/-- The fields `step`, `level_a`, `level_b` of a QDEC-slot operation, not-read bits 0. -/
def qdecFields : Instr → Option (Bool × Bool × Bool)
  | .qstep a b => some (true, a, b)
  | .qnop => some (false, false, false)
  | .reset => none
  | .pop => none
  | .rnop => none
  | .push _ => none
  | .wnop => none

/-- The field `rd_en` of a read-slot operation. -/
def readField : Instr → Option Bool
  | .pop => some true
  | .rnop => some false
  | .reset => none
  | .qstep _ _ => none
  | .qnop => none
  | .push _ => none
  | .wnop => none

/-- The word of a line, for a well-formed line; not-read bits 0 (R64). -/
def encodeLine : Line → Option PortWord
  | .c qop rop =>
    match qdecFields qop, readField rop with
    | some (s, a, b), some r => some (.c (wordC s a b r))
    | _, _ => none
  | .p wop => if wop.slot = .write then some (encode wop) else none
  | .r op => if op.slot = .reset then some (encode op) else none

/-- The operation a line holds in a slot. -/
def Line.opAt : Line → Slot → Option Instr
  | .c qop _, .qdec => some qop
  | .c _ rop, .read => some rop
  | .p wop, .write => some wop
  | .r op, .reset => some op
  | .c _ _, .reset => none
  | .c _ _, .write => none
  | .p _, .reset => none
  | .p _, .qdec => none
  | .p _, .read => none
  | .r _, .qdec => none
  | .r _, .read => none
  | .r _, .write => none

/-- The port word with the bits `w`, of the format the row width selects: R is 1 bit, C is 4 bits (one byte), P is
9 bits (two bytes). DESIGN CHOICE (log 9): the table's words name no format, so the width does. -/
def tableWord (nbits w : Nat) : Except Reject PortWord :=
  if nbits ≤ 1 then
    if w < 2 then .ok (.r (BitVec.ofNat 1 w)) else .error .noSuchWord
  else if nbits ≤ 8 then
    if w < 16 then .ok (.c (BitVec.ofNat 4 w)) else .error .noSuchWord
  else
    if w < 512 then .ok (.p (BitVec.ofNat 9 w)) else .error .noSuchWord

/-- The one operation that stands for a line: of the two of a format C word the one that is not a NOP, the QDEC
slot's where both or neither are. DESIGN CHOICE (log 9): a format C word carries two. -/
def Line.rowOp : Line → Instr
  | .c qop rop => if qop = .qnop ∧ rop = .pop then .pop else qop
  | .p wop => wop
  | .r op => op

/-- The operation read from a row's word `w` of `nbits` bits, bit 0 least significant. -/
def decodeTableWord (nbits w : Nat) : Option Instr :=
  match tableWord nbits w with
  | .error _ => none
  | .ok pw =>
    match decode pw with
    | .error _ => none
    | .ok l => some l.rowOp

end Sys2Proof
end

