-- ==== Sys2Proof/Machine/State.lean ====
section
/-! DEFINITION. The state of the block (10_state.md R12 to R18, R22, R23, R25), the reasons a step can stop, and the
state after reset (R26). -/

namespace Sys2Proof.Machine

/-- The FIFO storage `mem` (10_state.md R14): the cells that a PUSH has written, by rising address. An unlisted cell
holds no value (R26, 93_implementation_defined.md V3). -/
abbrev Memory := List Host.Cell

/-- The result of a read-slot operation (41_bq.md R95, R96, R102). -/
inductive ReadResult where
  /-- RNOP: no POP was presented, no result. -/
  | noCall
  /-- None, "empty". -/
  | empty
  /-- `Some(b)`. -/
  | byte (b : Byte)
  deriving DecidableEq, Repr

/-- Why the machine stops with a fault. The block itself raises nothing (60_exceptions.md R110). -/
inductive Fault where
  /-- Raised by POP when the cell it reads was never written: a broken invariant, "a `fault` of the model"
  (93_implementation_defined.md V3). Safe: the machine stops where no value exists. -/
  | unwrittenCell
  deriving DecidableEq, Repr

/-- Why the machine has no meaning for a step. -/
inductive Refusal where
  /-- Raised by an arm of exec whose instruction has no meaning yet. Safe. No arm is left so. -/
  | notModelled (mnemonic : String)
  /-- Raised by step when the parameters break a constraint of 00_scope.md R6 (the fixed `DEBOUNCE_NS`
  among them, log 13) or 70_reset_and_hazards.md R144 (93_implementation_defined.md V8, "refuse the configuration"). Safe. -/
  | badConfiguration
  deriving DecidableEq, Repr

/-- The state. Register names are the spec's. `db_cnt` has CW bits and every pointer PW bits; the widths are
parameters, so they are natural numbers that every assignment keeps in range (log 4). -/
structure State where
  /-- The parameters, constant (00_scope.md R6, 10_state.md R20). -/
  cfg : Config
  /-- QuadratureState: bit 1 channel A, bit 0 channel B (R12). -/
  q : BitVec 2
  /-- The debounce timer (R13). -/
  db_cnt : Nat
  /-- The FIFO storage (R14). -/
  mem : Memory
  /-- Write pointer and its Gray copy, domain `clk_p` (R15). -/
  wbin : Nat
  wgray : Nat
  /-- Read pointer and its Gray copy, domain `clk_c` (R16). -/
  rbin : Nat
  rgray : Nat
  /-- The synchroniser of `rgray` into `clk_p` (R17). -/
  wq1_rgray : Nat
  wq2_rgray : Nat
  /-- The synchroniser of `wgray` into `clk_c` (R18). -/
  rq1_wgray : Nat
  rq2_wgray : Nat
  /-- Ghost: `wgray` changed since the last `EdgeC`; `rgray` changed since the last `EdgeP` (R22). -/
  w_fresh : Bool
  r_fresh : Bool
  /-- Ghost totals of accepted PUSHes and successful POPs (R23). -/
  Wt : Nat
  Rt : Nat
  /-- MODEL'S OWN (log 6): the level of the reset pin (30_encoding.md R50, R53). -/
  rst : Bool
  /-- MODEL'S OWN (log 5): the results the latest `EdgeC` operations returned (R58, R59). -/
  evt : Option Message
  rd : ReadResult
  /-- MODEL'S OWN (log 2): the draw of the edge under way, true for the previous pointer value (41_bq.md R98). -/
  draw : Bool
  /-- MODEL'S OWN (log 1): the environment's edges to come, and how many came from the free stream. -/
  pending : List EdgeIn
  edgeIx : Nat
  deriving DecidableEq, Repr

/-- The state after reset under the parameters `c` (R26). `mem` holds no value; the environment's fields are a
DESIGN CHOICE (log 1, log 2, log 5, log 6). -/
def State.resetWith (c : Config) : State :=
  { cfg := c, q := 0#2, db_cnt := 0, mem := [],
    wbin := 0, wgray := 0, rbin := 0, rgray := 0,
    wq1_rgray := 0, wq2_rgray := 0, rq1_wgray := 0, rq2_wgray := 0,
    w_fresh := false, r_fresh := false, Wt := 0, Rt := 0,
    rst := false, evt := none, rd := .noCall, draw := false, pending := [], edgeIx := 0 }

/-- The state after reset under the default parameters of R6. DESIGN CHOICE (log 3). -/
def State.reset : State := State.resetWith Config.default

end Sys2Proof.Machine
end

