-- ==== Sys2Proof/Machine/Params.lean ====
section
/-! DEFINITION. The quantities 00_scope.md R6 derives from the parameters, and the constraints on them. -/

namespace Sys2Proof

/-- `W`: the debounce window in `clk_c` cycles (R6, 40_qdec.md R73). -/
def Config.W (c : Config) : Nat := c.debounce_ns * c.f_clk_c_hz / 1000000000

/-- `CW`: the width of `db_cnt`, the smallest `n >= 1` with `2^n >= W` (R6). -/
def Config.CW (c : Config) : Nat := if c.W ≤ 1 then 1 else Nat.log2 (c.W - 1) + 1

/-- `AW`: the address width of `mem` (R6). -/
def Config.AW (c : Config) : Nat := Nat.log2 c.fifo_depth

/-- `PW`: the pointer width (R6, 30_encoding.md R60). -/
def Config.PW (c : Config) : Nat := c.AW + 1

/-- `REST`: the rest state of the decoder (R6). -/
def restState : BitVec 2 := 0b00#2

/-- The codes of the seven Local ids (R6, 30_encoding.md R57). -/
def Config.ids (c : Config) : List (BitVec 16) :=
  [c.id_this_node_is_leader, c.id_this_node_is_follower, c.id_knob_increment, c.id_knob_decrement,
    c.id_button_press, c.id_button_release, c.id_identify_leader_follower]

/-- No value stands twice in the list. -/
def allDistinct : List (BitVec 16) → Bool
  | [] => true
  | x :: xs => xs.all (fun y => decide (x ≠ y)) && allDistinct xs

/-- The constraints of R6 and 70_reset_and_hazards.md R144 that the rules rest on: the window is a whole number of cycles
and at least one, the depth a power of two and at least 2, the codes distinct. It holds for the short windows of
95_test_vectors.md too. -/
def Config.consistent (c : Config) : Bool :=
  decide (c.debounce_ns * c.f_clk_c_hz % 1000000000 = 0) && decide (1 ≤ c.W)
    && decide (2 ≤ c.fifo_depth) && decide (2 ^ c.AW = c.fifo_depth)
    && decide (c.domain_canbus ≠ c.domain_local) && allDistinct c.ids

/-- `DEBOUNCE_NS`: "3 000 000 ns, from the source", fixed (R6; 93_implementation_defined.md U6). -/
def debounceNs : Nat := 3000000

/-- All constraints of R6: consistent, and the window in ns the fixed one. -/
def Config.valid (c : Config) : Bool := decide (c.debounce_ns = debounceNs) && c.consistent

end Sys2Proof
end

