-- ==== Sys2Proof/Machine/Ops.lean ====
section
/-! DEFINITION. The named operations over memory and registers that the meanings share: arithmetic on pointers and
Gray codes (00_scope.md R7), the FIFO storage, the synchronisers (41_bq.md R97 to R99), the direction lookup and the
Message (40_qdec.md R76, R77), and one update of State for each group of registers that one event assigns. There is
no exception to take and none to return from (60_exceptions.md R110, R117). -/

namespace Sys2Proof.Machine

/-! ### Arithmetic (R7, R100) -/

/-- `(a + 1) mod 2^n`. -/
def incMod (n a : Nat) : Nat := (a + 1) % 2 ^ n

/-- `(a - b) mod 2^n`. -/
def subMod (n a b : Nat) : Nat := (a + (2 ^ n - b % 2 ^ n)) % 2 ^ n

/-- `gray_N(b) = b xor (b >> 1)`. -/
def gray (b : Nat) : Nat := b ^^^ (b >>> 1)

/-- The bits below `n` of the word whose Gray code is `g`, when `above` is its bit `n`: bit `i` is `g[i]` xor bit
`i + 1`. -/
def ungrayBelow (g : Nat) : Nat → Bool → Nat
  | 0, _ => 0
  | n + 1, above => (if Bool.xor (g.testBit n) above then 2 ^ n else 0) + ungrayBelow g n (Bool.xor (g.testBit n) above)

/-- `ungray_N(g)`: bit `n - 1` is `g[n-1]`. -/
def ungray (n g : Nat) : Nat := ungrayBelow g n false

/-! ### The FIFO storage (R7 MemRead and MemWrite, 10_state.md R14) -/

/-- `MemRead(a, 1)`: nothing where no PUSH has written. -/
def Memory.read : Memory → Nat → Option Byte
  | [], _ => none
  | (x, v) :: m, a => if x = a then some v else Memory.read m a

/-- `MemWrite(a, 1, v)`, keeping the addresses rising. -/
def Memory.write : Memory → Nat → Byte → Memory
  | [], a, v => [(a, v)]
  | (x, u) :: m, a, v =>
    if a < x then (a, v) :: (x, u) :: m
    else if x = a then (a, v) :: m
    else (x, u) :: Memory.write m a v

/-- The canonical form: addresses strictly rising. (No entry can equal what an unlisted cell reads as, which is no
value.) -/
def Memory.wf : Memory → Bool
  | [] => true
  | c :: m => m.all (fun d => decide (c.1 < d.1)) && Memory.wf m

/-! ### Direction lookup and Message (40_qdec.md R76, R77) -/

/-- `DIR(q)`: the lookup keyed on the state just left. State 00 is never left into 00. -/
def dirFrom (c : Config) (q : BitVec 2) : Option Dir :=
  if q = 0b10#2 then c.dir_from_10
  else if q = 0b01#2 then c.dir_from_01
  else if q = 0b11#2 then c.dir_from_11
  else none

/-- `EVT(d)`: the Message of an event, data zeroed. -/
def evtMessage (c : Config) : Option Dir → Option Message
  | some .increment => some { domain := c.domain_local, id := c.id_knob_increment, data := 0#64 }
  | some .decrement => some { domain := c.domain_local, id := c.id_knob_decrement, data := 0#64 }
  | none => none

/-- The result of an accepted transition from `q` to `new` (R76). -/
def emission (c : Config) (q new : BitVec 2) : Option Message :=
  if new = restState then evtMessage c (dirFrom c q) else none

/-- The timer's decrement, saturating at 0 (R73). -/
def countDown (n : Nat) : Nat := if n ≠ 0 then n - 1 else 0

/-! ### First-stage capture (41_bq.md R98) -/

/-- `cap_r`: the previous read pointer only when it is a candidate and the draw takes it. -/
def capR (s : State) : Nat :=
  if s.r_fresh && s.draw then gray (subMod s.cfg.PW s.rbin 1) else s.rgray

/-- `cap_w`: the previous write pointer only when it is a candidate and the draw takes it. -/
def capW (s : State) : Nat :=
  if s.w_fresh && s.draw then gray (subMod s.cfg.PW s.wbin 1) else s.wgray

/-! ### Updates of State -/

/-- What a QDEC-slot operation assigns: `q`, `db_cnt` and the result. -/
def State.setQdec (s : State) (q : BitVec 2) (n : Nat) (e : Option Message) : State :=
  { s with q := q, db_cnt := n, evt := e }

/-- What an accepted PUSH assigns (41_bq.md R92), the storage being `m` and the advanced pointer `p`. -/
def State.setWrite (s : State) (m : Memory) (p : Nat) : State :=
  { s with mem := m, wbin := p, wgray := gray p, w_fresh := true, Wt := s.Wt + 1 }

/-- What a successful POP assigns to the read pointer (41_bq.md R95), the advanced pointer being `p`. -/
def State.setRead (s : State) (p : Nat) : State :=
  { s with rbin := p, rgray := gray p, r_fresh := true, Rt := s.Rt + 1 }

/-- The result of a read-slot operation. -/
def State.setRd (s : State) (r : ReadResult) : State := { s with rd := r }

/-- The synchroniser shift of an `EdgeP` (41_bq.md R97). It reads nothing a PUSH writes, so applying it after the
PUSH reads pre-edge values. -/
def State.shiftP (s : State) : State :=
  { s with wq2_rgray := s.wq1_rgray, wq1_rgray := capR s, r_fresh := false }

/-- The synchroniser shift of an `EdgeC` (41_bq.md R97). It reads nothing a POP writes. -/
def State.shiftC (s : State) : State :=
  { s with rq2_wgray := s.rq1_wgray, rq1_wgray := capW s, w_fresh := false }

/-- RESET: every register of 10_state.md R26 at its reset value, `mem` untouched (70_reset_and_hazards.md R130), no
result shown. -/
def State.toReset (s : State) : State :=
  { s with
    q := 0#2, db_cnt := 0,
    wbin := 0, wgray := 0, rbin := 0, rgray := 0,
    wq1_rgray := 0, wq2_rgray := 0, rq1_wgray := 0, rq2_wgray := 0,
    w_fresh := false, r_fresh := false, Wt := 0, Rt := 0,
    evt := none, rd := .noCall }

/-- The level of the reset pin. -/
def State.setRst (s : State) (l : Bool) : State := { s with rst := l }

/-- The draw of the edge under way. -/
def State.setDraw (s : State) (d : Bool) : State := { s with draw := d }

/-- The environment's edges to come. -/
def State.setPending (s : State) (es : List EdgeIn) : State := { s with pending := es }

/-- How many edges came from the free stream. -/
def State.setEdgeIx (s : State) (n : Nat) : State := { s with edgeIx := n }

/-- The environment's next edge: the first one listed, else the free stream's (log 1). -/
def State.nextEdge (s : State) : EdgeIn :=
  match s.pending with
  | e :: _ => e
  | [] => Config.freeEdge s.edgeIx

/-- The state once that edge is taken from the list or from the stream. -/
def State.takeEdge (s : State) : State :=
  match s.pending with
  | _ :: es => s.setPending es
  | [] => s.setEdgeIx (s.edgeIx + 1)

/-- Run `f` on the next state of `o`, if it has one. -/
def andThen (o : Host.Outcome State Fault Refusal) (f : State → Host.Outcome State Fault Refusal) :
    Host.Outcome State Fault Refusal :=
  match o with
  | .next s => f s
  | .fault r => .fault r
  | .refused r => .refused r

end Sys2Proof.Machine
end

