-- ==== Sys2Proof/Machine/Operands.lean ====
section
/-! DEFINITION. Every operand form: the decoder's input state (30_encoding.md R55) and the one addressing mode,
pointer-implied (41_bq.md R103). PUSH's byte operand is the word's own bits (Decode.lean). -/

namespace Sys2Proof.Machine

/-- `new = {level_a, level_b}` (R55). -/
def inputState (a b : Bool) : BitVec 2 := BitVec.ofBool a ++ BitVec.ofBool b

/-- The effective address of a PUSH: `wbin[AW-1:0]`, before the increment (R103). -/
def writeAddr (s : State) : Nat := s.wbin % 2 ^ s.cfg.AW

/-- The effective address of a POP and of `rd_data`: `rbin[AW-1:0]`, before the increment (R103). -/
def readAddr (s : State) : Nat := s.rbin % 2 ^ s.cfg.AW

end Sys2Proof.Machine
end

