-- ==== Sys2Proof/Machine/Flags.lean ====
section
/-! DEFINITION. The four values that play the part of flags (10_state.md R19): computed at every edge, never stored. -/

namespace Sys2Proof.Machine

/-- `gate_open`: the debounce gate (40_qdec.md R72). -/
def gateOpen (s : State) : Bool := decide (s.db_cnt = 0)

/-- `changed`, for an evaluation on levels `a` and `b` (40_qdec.md R71). -/
def changed (s : State) (a b : Bool) : Bool := decide (inputState a b ≠ s.q)

/-- `wfull` (41_bq.md R91). -/
def wfull (s : State) : Bool :=
  decide (subMod s.cfg.PW s.wbin (ungray s.cfg.PW s.wq2_rgray) = s.cfg.fifo_depth)

/-- `rempty` (41_bq.md R94). -/
def rempty (s : State) : Bool := decide (s.rgray = s.rq2_wgray)

end Sys2Proof.Machine
end

