-- ==== Sys2Proof/Machine/Bq.lean ====
section
/-! DEFINITION. The operations of unit BQ (41_bq.md R92, R93, R95, R96), each with the synchroniser shift of its edge
(R97): the write side's part of an `EdgeP` (R101), the read side's part of an `EdgeC` (R102). -/

namespace Sys2Proof.Machine

/-- PUSH d (R92): accepted where the producer sees room, else dropped without a trace; then the shift. -/
def execPush (d : Byte) (s : State) : Host.Outcome State Fault Refusal :=
  if wfull s then
    .next s.shiftP
  else
    .next (s.setWrite (s.mem.write (writeAddr s) d) (incMod s.cfg.PW s.wbin)).shiftP

/-- WNOP (R93): the shift. -/
def execWnop (s : State) : Host.Outcome State Fault Refusal :=
  .next s.shiftP

/-- POP (R95): the oldest byte the consumer sees, or "empty"; then the shift. A cell no PUSH has written has no value
to return: the model's fault (93_implementation_defined.md V3). -/
def execPop (s : State) : Host.Outcome State Fault Refusal :=
  if rempty s then
    .next (s.setRd .empty).shiftC
  else
    match s.mem.read (readAddr s) with
    | some b => .next ((s.setRd (.byte b)).setRead (incMod s.cfg.PW s.rbin)).shiftC
    | none => .fault .unwrittenCell

/-- RNOP (R96): no result, the shift. -/
def execRnop (s : State) : Host.Outcome State Fault Refusal :=
  .next (s.setRd .noCall).shiftC

end Sys2Proof.Machine
end

