-- ==== Sys2Proof/Machine/Ports.lean ====
section
/-! DEFINITION. The output ports (30_encoding.md R50, R58, R59): functions of the pre-edge state and the inputs of the
same edge. An output that carries no meaning is `none` (93_implementation_defined.md V1, V2). The write side has no
output. -/

namespace Sys2Proof.Machine

/-- What a QSTEP on levels `a`, `b` returns (40_qdec.md R74). -/
def qstepResult (s : State) (a b : Bool) : Option Message :=
  if changed s a b && gateOpen s then emission s.cfg s.q (inputState a b) else none

/-- The Message at the event ports while `step`, `level_a`, `level_b` hold these levels: none is `evt_valid` = 0.
While `rst` is 1, `evt_valid` = 0 (70_reset_and_hazards.md R130). -/
def evtPort (s : State) (step a b : Bool) : Option Message :=
  if step && !s.rst then qstepResult s a b else none

/-- `evt_valid`. -/
def evtValid (s : State) (step a b : Bool) : Bool := (evtPort s step a b).isSome

/-- `evt_domain`. -/
def evtDomain (s : State) (step a b : Bool) : Option (BitVec 8) := (evtPort s step a b).map (·.domain)

/-- `evt_id`. -/
def evtId (s : State) (step a b : Bool) : Option (BitVec 16) := (evtPort s step a b).map (·.id)

/-- `evt_data`. -/
def evtData (s : State) (step a b : Bool) : Option (BitVec 64) := (evtPort s step a b).map (·.data)

/-- `rd_empty`; 1 while `rst` is 1 (70_reset_and_hazards.md R130). -/
def rdEmpty (s : State) : Bool := s.rst || rempty s

/-- `rd_data`: the byte a POP at the coming `EdgeC` returns, nothing where `rd_empty` = 1 (41_bq.md R94). -/
def rdData (s : State) : Option Byte :=
  if rdEmpty s then none else s.mem.read (readAddr s)

end Sys2Proof.Machine
end

