-- ==== Sys2Proof/Machine/Qdec.lean ====
section
/-! DEFINITION. The operations of unit QDEC (40_qdec.md R74, R75). -/

namespace Sys2Proof.Machine

/-- QSTEP a,b (R74): an accepted transition stores the input state, restarts the window and may emit; an unchanged
or ignored evaluation lets the timer run down. -/
def execQstep (a b : Bool) (s : State) : Host.Outcome State Fault Refusal :=
  if changed s a b && gateOpen s then
    .next (s.setQdec (inputState a b) (s.cfg.W - 1) (qstepResult s a b))
  else
    .next (s.setQdec s.q (countDown s.db_cnt) none)

/-- QNOP (R75): the passage of one cycle. -/
def execQnop (s : State) : Host.Outcome State Fault Refusal :=
  .next (s.setQdec s.q (countDown s.db_cnt) none)

end Sys2Proof.Machine
end

