-- ==== Sys2Proof/Machine/Reset.lean ====
section
/-! DEFINITION. RESET (70_reset_and_hazards.md R130). -/

namespace Sys2Proof.Machine

/-- RESET: one atomic event on the whole block. The level of the pin is the edge's own (Machine/Edge.lean). -/
def execReset (s : State) : Host.Outcome State Fault Refusal :=
  .next s.toReset

end Sys2Proof.Machine
end

