-- ==== Sys2Proof/Machine/Dispatch.lean ====
section
/-! DEFINITION. One arm per operation. -/

namespace Sys2Proof.Machine

def exec (i : Instr) (s : State) : Host.Outcome State Fault Refusal :=
  match i with
  | .reset => Sys2Proof.Machine.execReset s
  | .qstep a b => Sys2Proof.Machine.execQstep a b s
  | .qnop => Sys2Proof.Machine.execQnop s
  | .pop => Sys2Proof.Machine.execPop s
  | .rnop => Sys2Proof.Machine.execRnop s
  | .push d => Sys2Proof.Machine.execPush d s
  | .wnop => Sys2Proof.Machine.execWnop s

end Sys2Proof.Machine
end

