-- ==== Sys2Proof/Machine/Edge.lean ====
section
/-! DEFINITION. One event at the ports: which operations it executes, and what the reset pin does to it
(30_encoding.md R51 to R54, 70_reset_and_hazards.md R130). -/

namespace Sys2Proof.Machine

/-- The operations of a line. Both slots of an `EdgeC` execute at the same edge (R51); they touch disjoint state, so
running one after the other reads pre-edge values (60_exceptions.md R115 a). -/
def execLine (l : Line) (s : State) : Host.Outcome State Fault Refusal :=
  match l with
  | .c qop rop => andThen (exec qop s) (exec rop)
  | .p wop => exec wop s
  | .r op => exec op s

/-- One port word. While the reset pin is 1 no edge has any effect (R53, R130); the format R word sets the pin, and
with 1 it performs RESET. -/
def applyWord (w : PortWord) (s : State) : Host.Outcome State Fault Refusal :=
  match decode w with
  | .ok (.c qop rop) => if s.rst then .next s else execLine (.c qop rop) s
  | .ok (.p wop) => if s.rst then .next s else execLine (.p wop) s
  | .ok (.r op) => execLine (.r op) (s.setRst true)
  | .error _ => .next (s.setRst false)

/-- One event of the environment: its draw, then its word. -/
def applyEdge (e : EdgeIn) (s : State) : Host.Outcome State Fault Refusal :=
  applyWord e.word (s.setDraw e.stale)

/-- One step of the block under parameters that keep their constraints (93_implementation_defined.md V8). -/
def stepBlock (s : State) : Host.Outcome State Fault Refusal :=
  if s.cfg.valid then applyEdge s.nextEdge s.takeEdge else .refused .badConfiguration

/-- `s` with the word of a table row as the environment's next edge, current-value draw, and the pin released. -/
def presentWord (s : State) (nbits w : Nat) : State :=
  match tableWord nbits w with
  | .ok pw => (s.setPending ({ word := pw, stale := false } :: s.pending)).setRst false
  | .error _ => s

end Sys2Proof.Machine
end

