-- ==== Sys2Proof/Machine/Step.lean ====
section
/-! DEFINITION. The step of the machine: one event at the block's ports. -/

namespace Sys2Proof.Machine

/-- One step: the environment's next edge. -/
def step (s : State) : Host.Outcome State Fault Refusal := stepBlock s

/-- `s` with the word stored as the next edge the step takes. The block has no program (10_state.md R11): a "program"
is the list of edges the environment presents (log 1). -/
def State.withFetchWord (s : State) (nbits w : Nat) : State := presentWord s nbits w

end Sys2Proof.Machine
end

