-- ==== Sys2Proof/Safety.lean ====
section
/-! DEFINITION. The terms the claims use: the views of 20_memory.md R40, the invariant of the machine, the transition
table R78, what an outside observer records of a sequence of edges, and the abstract crossing contract R41. -/

namespace Sys2Proof.Machine

/-! ### Edges -/

/-- The event is an `EdgeC`. -/
def edgeIsC (e : EdgeIn) : Bool :=
  match e.word with
  | .c _ => true
  | .p _ => false
  | .r _ => false

/-- The event is an `EdgeP`. -/
def edgeIsP (e : EdgeIn) : Bool :=
  match e.word with
  | .p _ => true
  | .c _ => false
  | .r _ => false

/-- The event moves the reset pin. -/
def edgeIsR (e : EdgeIn) : Bool :=
  match e.word with
  | .r _ => true
  | .c _ => false
  | .p _ => false

/-- How many `EdgeC`s are among the events. -/
def countC (es : List EdgeIn) : Nat := es.countP edgeIsC

/-- How many `EdgeP`s are among the events. -/
def countP (es : List EdgeIn) : Nat := es.countP edgeIsP

/-- No event moves the reset pin. -/
def noReset (es : List EdgeIn) : Bool := es.all (fun e => !edgeIsR e)

/-- The event is an `EdgeC` whose QDEC slot is QSTEP a,b. -/
def evaluates (a b : Bool) (e : EdgeIn) : Bool :=
  match e.word with
  | .c w => decide (qdecOp w = .qstep a b)
  | .p _ => false
  | .r _ => false

/-- The levels a, b are held: whatever QSTEP the event carries evaluates them, and the reset pin does not move. -/
def holds (a b : Bool) (e : EdgeIn) : Bool :=
  match e.word with
  | .c w => decide (qdecOp w = .qstep a b ∨ qdecOp w = .qnop)
  | .p _ => true
  | .r _ => false

/-- The consumer polls at the event, if it is an `EdgeC`, and the reset pin does not move. -/
def polls (e : EdgeIn) : Bool :=
  match e.word with
  | .c w => decide (readOp w = .pop)
  | .p _ => true
  | .r _ => false

/-- The consumer does not poll at the event, and the reset pin does not move. -/
def noPoll (e : EdgeIn) : Bool :=
  match e.word with
  | .c w => decide (readOp w = .rnop)
  | .p _ => true
  | .r _ => false

/-- The producer pushes at the event, if it is an `EdgeP`, and the reset pin does not move. -/
def pushes (e : EdgeIn) : Bool :=
  match e.word with
  | .p w => decide (writeOp w ≠ .wnop)
  | .c _ => true
  | .r _ => false

/-- The bytes of the PUSH operations presented by the events, in order. -/
def presented : List EdgeIn → List Byte
  | [] => []
  | e :: es =>
    match e.word with
    | .c _ => presented es
    | .r _ => presented es
    | .p w =>
      match writeOp w with
      | .push d => d :: presented es
      | .reset => presented es
      | .qstep _ _ => presented es
      | .qnop => presented es
      | .pop => presented es
      | .rnop => presented es
      | .wnop => presented es

/-! ### The transition table (40_qdec.md R78) -/

/-- The sixteen cells of R78 with the gate open, in the order of its rows: `q`, `new`, `q` after, and the lookup entry
the result is made from (none where the cell says None). -/
def transitionTable (c : Config) : List (BitVec 2 × BitVec 2 × BitVec 2 × Option Dir) :=
  [(0b00#2, 0b00#2, 0b00#2, none), (0b00#2, 0b01#2, 0b01#2, none), (0b00#2, 0b10#2, 0b10#2, none),
   (0b00#2, 0b11#2, 0b11#2, none),
   (0b01#2, 0b00#2, 0b00#2, c.dir_from_01), (0b01#2, 0b01#2, 0b01#2, none), (0b01#2, 0b10#2, 0b10#2, none),
   (0b01#2, 0b11#2, 0b11#2, none)] ++
  [(0b10#2, 0b00#2, 0b00#2, c.dir_from_10), (0b10#2, 0b01#2, 0b01#2, none), (0b10#2, 0b10#2, 0b10#2, none),
   (0b10#2, 0b11#2, 0b11#2, none),
   (0b11#2, 0b00#2, 0b00#2, c.dir_from_11), (0b11#2, 0b01#2, 0b01#2, none), (0b11#2, 0b10#2, 0b10#2, none),
   (0b11#2, 0b11#2, 0b11#2, none)]

/-! ### Views (20_memory.md R40) -/

/-- How far the second, and the first, stage in `clk_c` lies behind `wbin`. -/
def wLag2 (s : State) : Nat := subMod s.cfg.PW s.wbin (ungray s.cfg.PW s.rq2_wgray)
def wLag1 (s : State) : Nat := subMod s.cfg.PW s.wbin (ungray s.cfg.PW s.rq1_wgray)

/-- How far the second, and the first, stage in `clk_p` lies behind `rbin`. -/
def rLag2 (s : State) : Nat := subMod s.cfg.PW s.rbin (ungray s.cfg.PW s.wq2_rgray)
def rLag1 (s : State) : Nat := subMod s.cfg.PW s.rbin (ungray s.cfg.PW s.wq1_rgray)

/-- `Ws`: the consumer's view of the write total (R40). -/
def viewWs (s : State) : Nat := s.Wt - wLag2 s

/-- `Rs`: the producer's view of the read total (R40). -/
def viewRs (s : State) : Nat := s.Rt - rLag2 s

/-- The write total the first stage in `clk_c` holds. -/
def viewWs1 (s : State) : Nat := s.Wt - wLag1 s

/-- The read total the first stage in `clk_p` holds. -/
def viewRs1 (s : State) : Nat := s.Rt - rLag1 s

/-! ### The invariant -/

/-- What every edge keeps, from reset on: consistent parameters (log 13), registers within their widths, pointers that count their totals (R15, R16,
R23), views in the order of R40 with the first stages between, a previous value behind a fresh bit that no stage has
passed (R98, R99), every cell the consumer may read written (R42), the timer within its window (R13), and reset values
while the reset pin is 1 (R130; the recorded results among them as the model chose them, log 5). -/
structure Inv (s : State) : Prop where
  cfg_consistent : s.cfg.consistent = true
  db_cnt_lt : s.db_cnt < s.cfg.W
  mem_wf : s.mem.wf = true
  mem_range : ∀ c ∈ s.mem, c.1 < s.cfg.fifo_depth
  wbin_eq : s.wbin = s.Wt % 2 ^ s.cfg.PW
  wgray_eq : s.wgray = gray s.wbin
  rbin_eq : s.rbin = s.Rt % 2 ^ s.cfg.PW
  rgray_eq : s.rgray = gray s.rbin
  wq1_lt : s.wq1_rgray < 2 ^ s.cfg.PW
  wq2_lt : s.wq2_rgray < 2 ^ s.cfg.PW
  rq1_lt : s.rq1_wgray < 2 ^ s.cfg.PW
  rq2_lt : s.rq2_wgray < 2 ^ s.cfg.PW
  wLag2_le : wLag2 s ≤ s.Wt
  wLag1_le : wLag1 s ≤ s.Wt
  rLag2_le : rLag2 s ≤ s.Rt
  rLag1_le : rLag1 s ≤ s.Rt
  rs_le_rs1 : viewRs s ≤ viewRs1 s
  rs1_le_rt : viewRs1 s ≤ s.Rt
  rt_le_ws : s.Rt ≤ viewWs s
  ws_le_ws1 : viewWs s ≤ viewWs1 s
  ws1_le_wt : viewWs1 s ≤ s.Wt
  wt_le : s.Wt ≤ viewRs s + s.cfg.fifo_depth
  w_fresh_lt : s.w_fresh = true → viewWs1 s < s.Wt
  r_fresh_lt : s.r_fresh = true → viewRs1 s < s.Rt
  written : ∀ k < s.Wt, s.Rt ≤ k → (s.mem.read (k % s.cfg.fifo_depth)).isSome = true
  held : s.rst = true → s = s.toReset

/-! ### An outside observer -/

/-- `n` steps of the machine, stopping where it stops. -/
def steps : Nat → State → Host.Outcome State Fault Refusal
  | 0, s => .next s
  | n + 1, s => andThen (step s) (steps n)

/-- What an observer has recorded since the start or the last RESET: the bytes of accepted PUSHes, the bytes POPs
returned (20_memory.md R36), the Messages emitted, and the values the decoder stored. -/
structure Run where
  s : State
  accepted : List Byte
  popped : List Byte
  events : List Message
  turns : List (BitVec 2)
  deriving DecidableEq, Repr

/-- Nothing recorded yet. -/
def Run.start (s : State) : Run := { s := s, accepted := [], popped := [], events := [], turns := [] }

/-- The bytes of a POP's result. -/
def ReadResult.bytes : ReadResult → List Byte
  | .byte b => [b]
  | .empty => []
  | .noCall => []

/-- Record one event that led to the state `t`. A PUSH was accepted where the write total moved; a transition was
accepted where `q` changed. While the reset pin is 1 an edge has no effect and nothing is recorded. -/
def Run.record (r : Run) (e : EdgeIn) (t : State) : Run :=
  match e.word with
  | .p _ =>
    if t.Wt = r.s.Wt then { r with s := t } else { r with s := t, accepted := r.accepted ++ presented [e] }
  | .c _ =>
    if r.s.rst then { r with s := t }
    else { r with
      s := t
      popped := r.popped ++ t.rd.bytes
      events := r.events ++ t.evt.toList
      turns := r.turns ++ (if t.q = r.s.q then [] else [t.q]) }
  | .r w => if w = 1#1 then Run.start t else { r with s := t }

/-- One event, recorded; nothing where the machine stops. -/
def Run.edge (r : Run) (e : EdgeIn) : Option Run :=
  match applyEdge e r.s with
  | .next t => some (r.record e t)
  | .fault _ => none
  | .refused _ => none

/-- A sequence of events, recorded. -/
def Run.edges : List EdgeIn → Run → Option Run
  | [], r => some r
  | e :: es, r =>
    match r.edge e with
    | some r' => Run.edges es r'
    | none => none

/-- The invariant of a recorded run: the state's own, and the cells from `Rt` to `Wt - 1` hold the accepted bytes not
yet popped, the popped ones being the first `Rt` accepted. -/
structure RunInv (r : Run) : Prop where
  inv : Inv r.s
  accepted_length : r.accepted.length = r.s.Wt
  popped_eq : r.popped = r.accepted.take r.s.Rt
  cells : ∀ k < r.s.Wt, r.s.Rt ≤ k → r.s.mem.read (k % r.s.cfg.fifo_depth) = r.accepted[k]?

/-! ### The abstract crossing contract (20_memory.md R41) -/

/-- The four totals of R40 and the storage. -/
structure Contract where
  depth : Nat
  mem : Memory
  Wt : Nat
  Rt : Nat
  Ws : Nat
  Rs : Nat

/-- The contract's view of a state. -/
def contractOf (s : State) : Contract :=
  { depth := s.cfg.fifo_depth, mem := s.mem, Wt := s.Wt, Rt := s.Rt, Ws := viewWs s, Rs := viewRs s }

/-- PUSH(d) of R41. -/
def Contract.push (k : Contract) (d : Byte) : Contract :=
  if k.Wt - k.Rs < k.depth then { k with mem := k.mem.write (k.Wt % k.depth) d, Wt := k.Wt + 1 } else k

/-- The result of POP of R41. -/
def Contract.popResult (k : Contract) : Option Byte :=
  if k.Rt < k.Ws then k.mem.read (k.Rt % k.depth) else none

/-- POP of R41. -/
def Contract.pop (k : Contract) : Contract :=
  if k.Rt < k.Ws then { k with Rt := k.Rt + 1 } else k

/-- SYNC_W of R41: the consumer's view catches up, partly or fully. -/
def Contract.SyncW (k l : Contract) : Prop := ∃ v, k.Ws ≤ v ∧ v ≤ k.Wt ∧ l = { k with Ws := v }

/-- SYNC_R of R41: the producer's view catches up, partly or fully. -/
def Contract.SyncR (k l : Contract) : Prop := ∃ v, k.Rs ≤ v ∧ v ≤ k.Rt ∧ l = { k with Rs := v }

end Sys2Proof.Machine
end

