-- ==== Sys2Proof/Certificates/Slice0/Obligations.lean ====
section
/-! DEFINITION. The statements for the provers. Register-level statements are written in the spec's own expressions;
`applyEdge e s` is one event of the environment at state `s` (what `step` runs), `Run.edges es (Run.start s)` a sequence
of them with what an outside observer records. -/

open Sys2Proof Sys2Proof.Machine

/-! ### Decoding -/

/-- 95_test_vectors.md part 2: words written out bit by bit from R51 to R53 carry the operations the spec lists. -/
def Obligations.ListedWordsDecode : Prop :=
  decode (.c 0b0000#4) = .ok (.c .qnop .rnop) ∧
  decode (.c 0b0001#4) = .ok (.c .qnop .pop) ∧
  decode (.c 0b0110#4) = .ok (.c .qnop .rnop) ∧
  decode (.c 0b1010#4) = .ok (.c (.qstep false true) .rnop) ∧
  decode (.c 0b1101#4) = .ok (.c (.qstep true false) .pop) ∧
  decode (.p 0b000000000#9) = .ok (.p .wnop) ∧
  decode (.p 0b010100101#9) = .ok (.p .wnop) ∧
  decode (.p 0b110100101#9) = .ok (.p (.push 0b10100101#8)) ∧
  decode (.r 0b1#1) = .ok (.r .reset) ∧
  decode (.r 0b0#1) = .error .resetNotAsserted

/-- R54: the operation map, row by row, by mask and match; the two slots of a format C word are decoded
independently. The spec marks the bit positions as its decision D2. -/
def Obligations.OperationMapByMaskAndMatch : Prop :=
  (∀ w : BitVec 1, (w &&& 0b1#1 = 0b1#1 → decode (.r w) = .ok (.r .reset))) ∧
  (∀ w : BitVec 4, ∃ qop rop, decode (.c w) = .ok (.c qop rop) ∧
    (w &&& 0b1000#4 = 0b1000#4 → qop = .qstep (w.getLsbD 2) (w.getLsbD 1)) ∧
    (w &&& 0b1000#4 = 0b0000#4 → qop = .qnop) ∧
    (w &&& 0b0001#4 = 0b0001#4 → rop = .pop) ∧
    (w &&& 0b0001#4 = 0b0000#4 → rop = .rnop)) ∧
  (∀ w : BitVec 9, ∃ wop, decode (.p w) = .ok (.p wop) ∧
    (w &&& 0b100000000#9 = 0b100000000#9 → wop = .push (w.extractLsb' 0 8)) ∧
    (w &&& 0b100000000#9 = 0b000000000#9 → wop = .wnop))

/-- Decoding an encoded operation gives it back in its slot, with every operand; decoding an encoded well-formed line
gives the line; and every word that decodes is, but for bits no operation reads, the encoding of what it decodes to
(R54, R62, R64). -/
def Obligations.DecodeAndEncodeAgree : Prop :=
  (∀ i : Instr, ∃ l, decode (encode i) = .ok l ∧ l.wf = true ∧ l.opAt i.slot = some i) ∧
  (∀ l : Line, l.wf = true → ∃ pw, encodeLine l = some pw ∧ decode pw = .ok l) ∧
  (∀ l : Line, l.wf = false → encodeLine l = none) ∧
  (∀ pw l, decode pw = .ok l → l.wf = true ∧ ∃ pv, encodeLine l = some pv ∧
    match pw with
    | .c w => pv = .c (if w.getLsbD 3 then w else w &&& 0b0001#4)
    | .p w => pv = .p (if w.getLsbD 8 then w else 0#9)
    | .r w => pv = .r w)

/-! ### The step -/

/-- A step takes the environment's next edge, the first listed or else the free stream's, and runs exactly the
operations its word decodes to: both slots of a format C word, the one of a format P word, RESET with the pin set; the
format R word 0 releases the pin. While the pin is 1 no clock edge has any effect (R53). `pending`, the stream and the
pin's place in State are the model's own (log 1, log 6). -/
def Obligations.StepRunsTheDecodedOperations : Prop :=
  ∀ s : State,
    (∀ e es, s.pending = e :: es → s.nextEdge = e ∧ s.takeEdge = s.setPending es) ∧
    (s.pending = [] → s.nextEdge = Config.freeEdge s.edgeIx ∧ s.takeEdge = s.setEdgeIx (s.edgeIx + 1)) ∧
    (s.cfg.valid = true → ∀ e, s.nextEdge = e →
      (∀ qop rop, decode e.word = .ok (.c qop rop) → s.rst = false →
        step s = andThen (exec qop { s.takeEdge with draw := e.stale }) (exec rop)) ∧
      (∀ wop, decode e.word = .ok (.p wop) → s.rst = false →
        step s = exec wop { s.takeEdge with draw := e.stale }) ∧
      (∀ op, decode e.word = .ok (.r op) → step s = exec op { s.takeEdge with draw := e.stale, rst := true }) ∧
      (decode e.word = .error .resetNotAsserted → step s = .next { s.takeEdge with draw := e.stale, rst := false }) ∧
      (s.rst = true → edgeIsR e = false → step s = .next { s.takeEdge with draw := e.stale }))

/-- Running the machine for as many steps as there are listed edges is running those edges in order, whatever is
listed after them. -/
def Obligations.ListedEdgesRunInOrder : Prop :=
  ∀ (es rest : List EdgeIn) (s : State) (r : Run), s.cfg.valid = true → Run.edges es (Run.start s) = some r →
    steps es.length (s.setPending (es ++ rest)) = .next (r.s.setPending rest)

/-- A step is refused exactly where the parameters break a constraint of R6 or R144: "refuse the configuration" (V8). V8
does not list a DEBOUNCE_NS other than the one R6 fixes, nor equal codes: that these too are refused is the model's
reading of R6 (log 13, log 10). -/
def Obligations.OnlyBadParametersAreRefused : Prop :=
  (∀ s : State, (∃ r, step s = .refused r) ↔ s.cfg.valid = false) ∧
  (∀ c : Config, c.valid = true ↔
    c.debounce_ns = 3000000 ∧
    c.debounce_ns * c.f_clk_c_hz % 1000000000 = 0 ∧ 1 ≤ c.debounce_ns * c.f_clk_c_hz / 1000000000 ∧
    2 ≤ c.fifo_depth ∧ (∃ n, c.fifo_depth = 2 ^ n) ∧ c.domain_canbus ≠ c.domain_local ∧
    [c.id_this_node_is_leader, c.id_this_node_is_follower, c.id_knob_increment, c.id_knob_decrement,
      c.id_button_press, c.id_button_release, c.id_identify_leader_follower].Nodup)

/-- R20: "Every configurable quantity is a static parameter ... constant afterwards". -/
def Obligations.ParametersNeverChange : Prop :=
  ∀ s t : State, step s = .next t → t.cfg = s.cfg

/-- The derived parameters of R6: `CW` is the smallest `n >= 1` with `2^n >= W`, `2^AW` is the depth, `PW = AW + 1`;
and the timer's load value fits its register (R79). At the fixed 3 ms, W is three cycles for each kHz of `clk_c`; the
rest holds for the short windows of the spec's vectors too (log 13). -/
def Obligations.DerivedWidths : Prop :=
  (∀ c : Config, c.valid = true → c.consistent = true ∧ c.W = c.f_clk_c_hz / 1000 * 3) ∧
  ∀ c : Config, c.consistent = true →
    1 ≤ c.CW ∧ c.W ≤ 2 ^ c.CW ∧ (∀ n, 1 ≤ n → c.W ≤ 2 ^ n → c.CW ≤ n) ∧ c.W - 1 < 2 ^ c.CW ∧
    c.W * 1000000000 = c.debounce_ns * c.f_clk_c_hz ∧
    2 ^ c.AW = c.fifo_depth ∧ c.PW = c.AW + 1 ∧ 2 ^ c.PW = 2 * c.fifo_depth

/-! ### Reset -/

/-- R26: the value of every register after reset, and the outputs. The spec marks the table as its decision D7; that
State.reset takes the default parameters is the model's choice (log 3); that its reset pin is released is another
(log 6), named in no clause here. -/
def Obligations.ResetValues : Prop :=
  State.reset = State.resetWith Config.default ∧
  ∀ c : Config,
    (State.resetWith c).cfg = c ∧ (State.resetWith c).q = 0b00#2 ∧ (State.resetWith c).db_cnt = 0 ∧
    (∀ a, (State.resetWith c).mem.read a = none) ∧
    (State.resetWith c).wbin = 0 ∧ (State.resetWith c).wgray = 0 ∧
    (State.resetWith c).rbin = 0 ∧ (State.resetWith c).rgray = 0 ∧
    (State.resetWith c).wq1_rgray = 0 ∧ (State.resetWith c).wq2_rgray = 0 ∧
    (State.resetWith c).rq1_wgray = 0 ∧ (State.resetWith c).rq2_wgray = 0 ∧
    (State.resetWith c).w_fresh = false ∧ (State.resetWith c).r_fresh = false ∧
    (State.resetWith c).Wt = 0 ∧ (State.resetWith c).Rt = 0 ∧
    rdEmpty (State.resetWith c) = true ∧ (∀ a b, evtValid (State.resetWith c) false a b = false)

/-- R19, after reset: `gate_open` = 1, `wfull` = 0, `rempty` = 1. -/
def Obligations.FlagsAfterReset : Prop :=
  ∀ c : Config, c.consistent = true →
    gateOpen (State.resetWith c) = true ∧ wfull (State.resetWith c) = false ∧ rempty (State.resetWith c) = true

/-- R130: RESET is one atomic event on the whole block, `mem` untouched; its word is format R with `rst` = 1; while
`rst` is 1 the registers hold their reset values, no edge has any effect, `evt_valid` = 0 and `rd_empty` = 1. The spec
marks the mechanism as its decision D16. The values of `evt` and `rd`, the model's record of results, are its choice
(log 5), and so are the pin's level held in State and the draw noted while it is 1 (log 6). -/
def Obligations.ResetIsOneAtomicEvent : Prop :=
  ∀ s : State,
    exec .reset s = .next { s with
      q := 0b00#2, db_cnt := 0, wbin := 0, wgray := 0, rbin := 0, rgray := 0,
      wq1_rgray := 0, wq2_rgray := 0, rq1_wgray := 0, rq2_wgray := 0,
      w_fresh := false, r_fresh := false, Wt := 0, Rt := 0, evt := none, rd := .noCall } ∧
    (∀ d, applyEdge { word := .r 1#1, stale := d } s = exec .reset { s with draw := d, rst := true }) ∧
    (s.rst = true → rdEmpty s = true ∧ (∀ x a b, evtValid s x a b = false) ∧
      ∀ e, edgeIsR e = false → applyEdge e s = .next { s with draw := e.stale }) ∧
    (Inv s → s.rst = true →
      s.q = 0b00#2 ∧ s.db_cnt = 0 ∧ s.wbin = 0 ∧ s.wgray = 0 ∧ s.rbin = 0 ∧ s.rgray = 0 ∧
      s.wq1_rgray = 0 ∧ s.wq2_rgray = 0 ∧ s.rq1_wgray = 0 ∧ s.rq2_wgray = 0 ∧
      s.w_fresh = false ∧ s.r_fresh = false ∧ s.Wt = 0 ∧ s.Rt = 0)

/-- The frame of RESET: every byte of memory, the parameters and the environment's fields are unchanged (R130: "`mem`
is untouched"). -/
def Obligations.ResetFrame : Prop :=
  ∀ s t : State, exec .reset s = .next t →
    (∀ a, t.mem.read a = s.mem.read a) ∧ t.mem = s.mem ∧ t.cfg = s.cfg ∧ t.rst = s.rst ∧ t.draw = s.draw ∧
    t.pending = s.pending ∧ t.edgeIx = s.edgeIx

/-! ### Unit QDEC -/

/-- R74, with R55: QSTEP's word, and its whole effect on any operands and any state. -/
def Obligations.QstepFollowsItsRule : Prop :=
  ∀ (s : State) (a b : Bool),
    (∀ w : BitVec 4, w.getLsbD 3 = true → w.getLsbD 2 = a → w.getLsbD 1 = b → qdecOp w = .qstep a b) ∧
    (BitVec.ofBool a ++ BitVec.ofBool b ≠ s.q → s.db_cnt = 0 →
      exec (.qstep a b) s = .next { s with
        q := BitVec.ofBool a ++ BitVec.ofBool b
        db_cnt := s.cfg.W - 1
        evt := if BitVec.ofBool a ++ BitVec.ofBool b = 0b00#2 then evtMessage s.cfg (dirFrom s.cfg s.q) else none }) ∧
    (BitVec.ofBool a ++ BitVec.ofBool b = s.q ∨ s.db_cnt ≠ 0 →
      exec (.qstep a b) s = .next { s with
        q := s.q
        db_cnt := if s.db_cnt ≠ 0 then s.db_cnt - 1 else 0
        evt := none })

/-- R75: QNOP's word (levels not read), and its whole effect. The spec marks the rule as its decision D20. -/
def Obligations.QnopFollowsItsRule : Prop :=
  ∀ s : State,
    (∀ w : BitVec 4, w.getLsbD 3 = false → qdecOp w = .qnop) ∧
    exec .qnop s = .next { s with
      q := s.q
      db_cnt := if s.db_cnt ≠ 0 then s.db_cnt - 1 else 0
      evt := none }

/-- R77: the Message of each event, data zeroed, the ports that carry it, and the two messages of the default codes. -/
def Obligations.EventMessages : Prop :=
  (∀ c : Config,
    evtMessage c (some .increment) = some { domain := c.domain_local, id := c.id_knob_increment, data := 0#64 } ∧
    evtMessage c (some .decrement) = some { domain := c.domain_local, id := c.id_knob_decrement, data := 0#64 } ∧
    evtMessage c none = none) ∧
  (∀ (s : State) (x a b : Bool) (m : Message), evtPort s x a b = some m →
    evtDomain s x a b = some m.domain ∧ evtId s x a b = some m.id ∧ evtData s x a b = some m.data) ∧
  evtMessage Config.default (some .increment) = some { domain := 0x01#8, id := 0x0002#16, data := 0#64 } ∧
  evtMessage Config.default (some .decrement) = some { domain := 0x01#8, id := 0x0003#16, data := 0#64 }

/-- R76: what an accepted transition stores and returns, by the state just left; and the default entries of the lookup
(marked by the spec as its decision D4). -/
def Obligations.EmissionRule : Prop :=
  (∀ (s : State) (a b : Bool), BitVec.ofBool a ++ BitVec.ofBool b ≠ s.q → s.db_cnt = 0 →
    ∃ t, exec (.qstep a b) s = .next t ∧ t.q = BitVec.ofBool a ++ BitVec.ofBool b ∧
      (t.q ≠ 0b00#2 → t.evt = none) ∧
      (t.q = 0b00#2 → s.q = 0b10#2 → t.evt = evtMessage s.cfg s.cfg.dir_from_10) ∧
      (t.q = 0b00#2 → s.q = 0b01#2 → t.evt = evtMessage s.cfg s.cfg.dir_from_01) ∧
      (t.q = 0b00#2 → s.q = 0b11#2 → t.evt = evtMessage s.cfg s.cfg.dir_from_11)) ∧
  Config.default.dir_from_10 = some .increment ∧ Config.default.dir_from_01 = some .decrement ∧
  Config.default.dir_from_11 = none

/-- R78 (derived by the spec from R74): the whole transition function, gate open by the table, gate closed "`q` kept,
None" with the timer counting down. -/
def Obligations.TransitionTable : Prop :=
  ∀ (s : State) (a b : Bool),
    (s.db_cnt = 0 → ∃ t m, exec (.qstep a b) s = .next t ∧
      (s.q, BitVec.ofBool a ++ BitVec.ofBool b, t.q, m) ∈ transitionTable s.cfg ∧
      t.evt = evtMessage s.cfg m ∧ t.db_cnt = if t.q = s.q then 0 else s.cfg.W - 1) ∧
    (s.db_cnt ≠ 0 → ∃ t, exec (.qstep a b) s = .next t ∧ t.q = s.q ∧ t.evt = none ∧ t.db_cnt = s.db_cnt - 1)

/-- The frame of QSTEP and QNOP: nothing but `q`, `db_cnt` and the returned result changes; every byte of memory and
all of unit BQ is as before. -/
def Obligations.QdecFrame : Prop :=
  ∀ (i : Instr) (s t : State), ((∃ a b, i = .qstep a b) ∨ i = .qnop) → exec i s = .next t →
    (∀ a, t.mem.read a = s.mem.read a) ∧ t.wbin = s.wbin ∧ t.wgray = s.wgray ∧ t.rbin = s.rbin ∧ t.rgray = s.rgray ∧
    t.wq1_rgray = s.wq1_rgray ∧ t.wq2_rgray = s.wq2_rgray ∧ t.rq1_wgray = s.rq1_wgray ∧ t.rq2_wgray = s.rq2_wgray ∧
    t.w_fresh = s.w_fresh ∧ t.r_fresh = s.r_fresh ∧ t.Wt = s.Wt ∧ t.Rt = s.Rt ∧ t.rd = s.rd ∧
    t.cfg = s.cfg ∧ t.rst = s.rst ∧ t.draw = s.draw ∧ t.pending = s.pending ∧ t.edgeIx = s.edgeIx

/-- R73: the timer at every `EdgeC`, whichever operations its word holds. The spec marks the timer as its decision
D5. -/
def Obligations.TimerAtEveryEdgeC : Prop :=
  ∀ (s t : State) (w : BitVec 4) (d : Bool), s.rst = false → applyEdge { word := .c w, stale := d } s = .next t →
    t.db_cnt =
      if w.getLsbD 3 = true ∧ BitVec.ofBool (w.getLsbD 2) ++ BitVec.ofBool (w.getLsbD 1) ≠ s.q ∧ s.db_cnt = 0
      then s.cfg.W - 1
      else if s.db_cnt ≠ 0 then s.db_cnt - 1 else 0

/-- R12: only an accepted transition of QSTEP writes `q` (and RESET, which is power-on's event): over every step of
the machine. -/
def Obligations.OnlyAcceptedTransitionsWriteQ : Prop :=
  ∀ s t : State, step s = .next t → t.q ≠ s.q →
    s.nextEdge.word = .r 1#1 ∨
    ∃ a b, evaluates a b s.nextEdge = true ∧ t.q = BitVec.ofBool a ++ BitVec.ofBool b ∧ s.db_cnt = 0 ∧
      t.db_cnt = s.cfg.W - 1 ∧ s.rst = false

/-- R83, with R76: the machine never emits on an intermediate transition. Whatever the word, an event appears only at
an evaluation of the levels 0,0 that finds the gate open and leaves a non-rest state. -/
def Obligations.OnlyAReturnToRestEmits : Prop :=
  ∀ (e : EdgeIn) (s t : State), edgeIsC e = true → s.rst = false → applyEdge e s = .next t → t.evt ≠ none →
    evaluates false false e = true ∧ s.q ≠ 0b00#2 ∧ t.q = 0b00#2 ∧ s.db_cnt = 0 ∧
    t.evt = evtMessage s.cfg (dirFrom s.cfg s.q)

/-- R81 (derived by the spec): after an accepted transition, the evaluations of the next W - 1 `EdgeC`s change nothing
and emit nothing, whatever their operands and whatever else happens between; and if from the W-th on the levels equal
the stored state, nothing ever follows. -/
def Obligations.DebounceWindow : Prop :=
  ∀ (s : State) (a b : Bool) (e : EdgeIn) (es fs : List EdgeIn) (r : Run),
    Inv s → s.rst = false → evaluates a b e = true → BitVec.ofBool a ++ BitVec.ofBool b ≠ s.q → s.db_cnt = 0 →
    noReset es = true →
    (countC es ≤ s.cfg.W - 1 → Run.edges (e :: es) (Run.start s) = some r →
      r.turns = [BitVec.ofBool a ++ BitVec.ofBool b] ∧ r.s.q = BitVec.ofBool a ++ BitVec.ofBool b ∧
      r.events = (emission s.cfg s.q (BitVec.ofBool a ++ BitVec.ofBool b)).toList) ∧
    (countC es = s.cfg.W - 1 → fs.all (holds a b) = true → Run.edges (e :: (es ++ fs)) (Run.start s) = some r →
      r.turns = [BitVec.ofBool a ++ BitVec.ofBool b] ∧ r.s.q = BitVec.ofBool a ++ BitVec.ofBool b ∧
      r.events = (emission s.cfg s.q (BitVec.ofBool a ++ BitVec.ofBool b)).toList)

/-- R72: as long as no further transition is accepted, the `EdgeC` that lies `k` cycles after an accepted transition
finds the gate closed for `k <= W - 1` and open for `k >= W`; before the first one after reset it is open. -/
def Obligations.GateOpensAfterTheWindow : Prop :=
  (∀ c : Config, gateOpen (State.resetWith c) = true) ∧
  ∀ (s : State) (a b : Bool) (e : EdgeIn) (es : List EdgeIn) (r : Run),
    Inv s → s.rst = false → evaluates a b e = true → BitVec.ofBool a ++ BitVec.ofBool b ≠ s.q → s.db_cnt = 0 →
    noReset es = true → Run.edges (e :: es) (Run.start s) = some r → r.turns = [BitVec.ofBool a ++ BitVec.ofBool b] →
    (gateOpen r.s = true ↔ s.cfg.W ≤ countC es + 1)

/-- R80 (derived by the spec): a clean detent gives four accepted transitions and one event, at the return to rest, in
either direction, with anything on the queue's ports between. -/
def Obligations.CleanDetentEmitsOnce : Prop :=
  ∀ (s : State) (x y : Bool) (e1 e2 e3 e4 : EdgeIn) (h1 h2 h3 h4 : List EdgeIn),
    Inv s → s.rst = false → s.q = 0b00#2 → s.db_cnt = 0 → x ≠ y →
    evaluates x y e1 = true → h1.all (holds x y) = true → s.cfg.W ≤ countC h1 + 1 →
    evaluates true true e2 = true → h2.all (holds true true) = true → s.cfg.W ≤ countC h2 + 1 →
    evaluates y x e3 = true → h3.all (holds y x) = true → s.cfg.W ≤ countC h3 + 1 →
    evaluates false false e4 = true → h4.all (holds false false) = true →
    ∃ r, Run.edges ((e1 :: h1) ++ (e2 :: h2) ++ (e3 :: h3) ++ (e4 :: h4)) (Run.start s) = some r ∧
      r.turns = [BitVec.ofBool x ++ BitVec.ofBool y, 0b11#2, BitVec.ofBool y ++ BitVec.ofBool x, 0b00#2] ∧
      r.events = (evtMessage s.cfg (if y then s.cfg.dir_from_10 else s.cfg.dir_from_01)).toList ∧ r.s.q = 0b00#2

/-- R82 cases a, b and c (derived by the spec): from rest, once a transition into 01 or 10 is accepted, whatever is
evaluated inside the window (the levels held, a glitch, a fast turn), an evaluation of 00 at the window's end emits one
event, chosen by the state just left alone. -/
def Obligations.ReturnAfterTheWindowEmitsOnce : Prop :=
  ∀ (s : State) (x y : Bool) (e1 e2 : EdgeIn) (es : List EdgeIn),
    Inv s → s.rst = false → s.q = 0b00#2 → s.db_cnt = 0 → x ≠ y →
    evaluates x y e1 = true → noReset es = true → countC es = s.cfg.W - 1 → evaluates false false e2 = true →
    ∃ r, Run.edges (e1 :: (es ++ [e2])) (Run.start s) = some r ∧
      r.turns = [BitVec.ofBool x ++ BitVec.ofBool y, 0b00#2] ∧
      r.events = (evtMessage s.cfg (if x then s.cfg.dir_from_10 else s.cfg.dir_from_01)).toList ∧ r.s.q = 0b00#2

/-- R133 (derived by the spec), run from the model's reset state, in which the pin is released (log 6): after reset the first evaluation away from 00 is accepted and emits nothing; no event
appears before the levels have been seen away from 00; no POP returns a byte before a PUSH. -/
def Obligations.FirstOperationsAfterReset : Prop :=
  ∀ c : Config, c.consistent = true →
    (∀ a b, BitVec.ofBool a ++ BitVec.ofBool b ≠ 0b00#2 → ∃ t, exec (.qstep a b) (State.resetWith c) = .next t ∧
      t.q = BitVec.ofBool a ++ BitVec.ofBool b ∧ t.evt = none ∧ t.db_cnt = c.W - 1) ∧
    (∀ es : List EdgeIn, es.all (holds false false) = true →
      ∃ r, Run.edges es (Run.start (State.resetWith c)) = some r ∧ r.events = [] ∧ r.turns = []) ∧
    (∀ es : List EdgeIn, noReset es = true → presented es = [] →
      ∃ r, Run.edges es (Run.start (State.resetWith c)) = some r ∧ r.accepted = [] ∧ r.popped = [])

/-! ### Unit BQ: the operations -/

/-- R92, with R91, R97, R98: PUSH's word and its whole effect, accepted or dropped, with the synchroniser shift of its
edge; `draw` is the outcome of the edge's draw. -/
def Obligations.PushFollowsItsRule : Prop :=
  ∀ (s : State) (d : Byte),
    (∀ w : BitVec 9, w.getLsbD 8 = true → w.extractLsb' 0 8 = d → writeOp w = .push d) ∧
    (subMod s.cfg.PW s.wbin (ungray s.cfg.PW s.wq2_rgray) ≠ s.cfg.fifo_depth →
      exec (.push d) s = .next { s with
        mem := s.mem.write (s.wbin % 2 ^ s.cfg.AW) d
        wbin := (s.wbin + 1) % 2 ^ s.cfg.PW
        wgray := gray ((s.wbin + 1) % 2 ^ s.cfg.PW)
        w_fresh := true
        Wt := s.Wt + 1
        wq2_rgray := s.wq1_rgray
        wq1_rgray := if s.r_fresh = true ∧ s.draw = true then gray (subMod s.cfg.PW s.rbin 1) else s.rgray
        r_fresh := false }) ∧
    (subMod s.cfg.PW s.wbin (ungray s.cfg.PW s.wq2_rgray) = s.cfg.fifo_depth →
      exec (.push d) s = .next { s with
        wq2_rgray := s.wq1_rgray
        wq1_rgray := if s.r_fresh = true ∧ s.draw = true then gray (subMod s.cfg.PW s.rbin 1) else s.rgray
        r_fresh := false })

/-- R93: WNOP's word (data bits not read) and its whole effect, the shift. The spec marks the rule as its decision
D2. -/
def Obligations.WnopFollowsItsRule : Prop :=
  ∀ s : State,
    (∀ w : BitVec 9, w.getLsbD 8 = false → writeOp w = .wnop) ∧
    exec .wnop s = .next { s with
      wq2_rgray := s.wq1_rgray
      wq1_rgray := if s.r_fresh = true ∧ s.draw = true then gray (subMod s.cfg.PW s.rbin 1) else s.rgray
      r_fresh := false }

/-- R95, with R94, R97, R98: POP's word and its whole effect: a byte where the consumer sees one, "empty" where it
sees none, with the synchroniser shift of its edge. -/
def Obligations.PopFollowsItsRule : Prop :=
  ∀ s : State,
    (∀ w : BitVec 4, w.getLsbD 0 = true → readOp w = .pop) ∧
    (∀ b, s.rgray ≠ s.rq2_wgray → s.mem.read (s.rbin % 2 ^ s.cfg.AW) = some b →
      exec .pop s = .next { s with
        rd := .byte b
        rbin := (s.rbin + 1) % 2 ^ s.cfg.PW
        rgray := gray ((s.rbin + 1) % 2 ^ s.cfg.PW)
        r_fresh := true
        Rt := s.Rt + 1
        rq2_wgray := s.rq1_wgray
        rq1_wgray := if s.w_fresh = true ∧ s.draw = true then gray (subMod s.cfg.PW s.wbin 1) else s.wgray
        w_fresh := false }) ∧
    (s.rgray = s.rq2_wgray →
      exec .pop s = .next { s with
        rd := .empty
        rq2_wgray := s.rq1_wgray
        rq1_wgray := if s.w_fresh = true ∧ s.draw = true then gray (subMod s.cfg.PW s.wbin 1) else s.wgray
        w_fresh := false })

/-- POP stops only where the consumer sees a byte and its cell was never written: "a `fault` of the model, showing a
broken invariant" (V3, log 7). -/
def Obligations.PopStopsOnlyOnAnUnwrittenCell : Prop :=
  ∀ s : State, ((∃ r, exec .pop s = .fault r) ↔
    s.rgray ≠ s.rq2_wgray ∧ s.mem.read (s.rbin % 2 ^ s.cfg.AW) = none) ∧ ∀ r, exec .pop s ≠ .refused r

/-- R96: RNOP's word and its whole effect: no result, the shift; the read ports are still driven. The spec marks the
rule as its decision D2. -/
def Obligations.RnopFollowsItsRule : Prop :=
  ∀ s : State,
    (∀ w : BitVec 4, w.getLsbD 0 = false → readOp w = .rnop) ∧
    (s.rst = false → (rdEmpty s = true ↔ s.rgray = s.rq2_wgray) ∧
      (s.rgray ≠ s.rq2_wgray → rdData s = s.mem.read (s.rbin % 2 ^ s.cfg.AW))) ∧
    exec .rnop s = .next { s with
      rd := .noCall
      rq2_wgray := s.rq1_wgray
      rq1_wgray := if s.w_fresh = true ∧ s.draw = true then gray (subMod s.cfg.PW s.wbin 1) else s.wgray
      w_fresh := false }

/-- The frame of PUSH and WNOP. A PUSH stores one byte, at `writeAddr` of the state before it: every other cell reads
as before, and all cells where nothing is stored. The decoder, the read side and the consumer's synchroniser are
unchanged; so are the write pointer, its copy, fresh bit and total where nothing is accepted. -/
def Obligations.WriteSideFrame : Prop :=
  ∀ (i : Instr) (s t : State), ((∃ d, i = .push d) ∨ i = .wnop) → exec i s = .next t →
    (∀ a, writeAddr s = a → ∀ x, x ≠ a → t.mem.read x = s.mem.read x) ∧
    (i = .wnop ∨ wfull s = true →
      (∀ x, t.mem.read x = s.mem.read x) ∧ t.wbin = s.wbin ∧ t.wgray = s.wgray ∧ t.w_fresh = s.w_fresh ∧
      t.Wt = s.Wt) ∧
    t.q = s.q ∧ t.db_cnt = s.db_cnt ∧ t.rbin = s.rbin ∧ t.rgray = s.rgray ∧ t.rq1_wgray = s.rq1_wgray ∧
    t.rq2_wgray = s.rq2_wgray ∧ t.Rt = s.Rt ∧ t.evt = s.evt ∧ t.rd = s.rd ∧
    t.cfg = s.cfg ∧ t.rst = s.rst ∧ t.draw = s.draw ∧ t.pending = s.pending ∧ t.edgeIx = s.edgeIx

/-- The frame of POP and RNOP: every byte of memory, the decoder, the write side and the producer's synchroniser are
unchanged; so are the read pointer, its copy, fresh bit and total where nothing is popped. -/
def Obligations.ReadSideFrame : Prop :=
  ∀ (i : Instr) (s t : State), (i = .pop ∨ i = .rnop) → exec i s = .next t →
    (∀ x, t.mem.read x = s.mem.read x) ∧
    (i = .rnop ∨ rempty s = true →
      t.rbin = s.rbin ∧ t.rgray = s.rgray ∧ t.r_fresh = s.r_fresh ∧ t.Rt = s.Rt) ∧
    t.q = s.q ∧ t.db_cnt = s.db_cnt ∧ t.wbin = s.wbin ∧ t.wgray = s.wgray ∧ t.wq1_rgray = s.wq1_rgray ∧
    t.wq2_rgray = s.wq2_rgray ∧ t.Wt = s.Wt ∧ t.evt = s.evt ∧
    t.cfg = s.cfg ∧ t.rst = s.rst ∧ t.draw = s.draw ∧ t.pending = s.pending ∧ t.edgeIx = s.edgeIx

/-- R58, R59 and R50: the result a QSTEP returns is what the event ports show during its cycle, and a POP returns what
the read ports show before its edge; with `step` = 0 there is no event; an output that carries no meaning has no
value. The spec marks the shape of the ports as its decisions D21 and D11. -/
def Obligations.PortsShowTheResults : Prop :=
  ∀ s : State, s.rst = false →
    (∀ a b t, exec (.qstep a b) s = .next t → t.evt = evtPort s true a b) ∧
    (∀ a b, evtValid s false a b = false) ∧
    (∀ x a b, (evtValid s x a b = true ↔ ∃ m, evtDomain s x a b = some m) ∧
      (evtValid s x a b = true ↔ ∃ m, evtId s x a b = some m) ∧
      (evtValid s x a b = true ↔ ∃ m, evtData s x a b = some m)) ∧
    (∀ t, exec .pop s = .next t →
      (rdEmpty s = true → t.rd = .empty ∧ rdData s = none) ∧
      (rdEmpty s = false → ∃ b, rdData s = some b ∧ t.rd = .byte b)) ∧
    (∀ t, exec .rnop s = .next t → t.rst = false ∧ (t.rq2_wgray = s.rq2_wgray → rdEmpty t = rdEmpty s ∧
      rdData t = rdData s))

/-! ### Pointers and Gray codes -/

/-- R7: `ungray_N(gray_N(b)) = b` for every N-bit `b`, and the other way round. -/
def Obligations.UngrayInvertsGray : Prop :=
  ∀ n b : Nat, b < 2 ^ n → ungray n (gray b) = b ∧ gray (ungray n b) = b

/-- R38: successive Gray codes differ in exactly one bit, the wrap from `2^n - 1` to 0 included. -/
def Obligations.GrayStepsOneBit : Prop :=
  ∀ n b : Nat, 1 ≤ n → b < 2 ^ n → ∃ i < n, gray b ^^^ gray (incMod n b) = 2 ^ i

/-- R91: the full test on binary pointers is the full test on Gray codes, equal but for the two top bits inverted. -/
def Obligations.FullTestOnGrayCodes : Prop :=
  ∀ (s : State), s.cfg.consistent = true → s.wbin < 2 ^ s.cfg.PW → s.wgray = gray s.wbin →
    s.wq2_rgray < 2 ^ s.cfg.PW →
    (wfull s = true ↔ s.wgray = s.wq2_rgray ^^^ (2 ^ (s.cfg.PW - 1) + 2 ^ (s.cfg.PW - 2)))

/-- R94: the empty test on Gray codes is the empty test on binary pointers. -/
def Obligations.EmptyTestOnBinaryPointers : Prop :=
  ∀ s : State, s.rbin < 2 ^ s.cfg.PW → s.rgray = gray s.rbin → s.rq2_wgray < 2 ^ s.cfg.PW →
    (rempty s = true ↔ s.rbin = ungray s.cfg.PW s.rq2_wgray)

/-- R97, R98, R99 at every clock edge, whichever operations its word holds: the shift, the two candidates of the draw,
and the fresh bits. The spec marks them as its decisions D9 and D10. -/
def Obligations.SynchroniserAtEveryEdge : Prop :=
  ∀ (s t : State) (d : Bool), s.rst = false →
    (∀ w, applyEdge { word := .p w, stale := d } s = .next t →
      t.wq2_rgray = s.wq1_rgray ∧
      t.wq1_rgray = (if s.r_fresh = true ∧ d = true then gray (subMod s.cfg.PW s.rbin 1) else s.rgray) ∧
      t.r_fresh = false ∧ t.w_fresh = (s.w_fresh || decide (t.Wt ≠ s.Wt))) ∧
    (∀ w, applyEdge { word := .c w, stale := d } s = .next t →
      t.rq2_wgray = s.rq1_wgray ∧
      t.rq1_wgray = (if s.w_fresh = true ∧ d = true then gray (subMod s.cfg.PW s.wbin 1) else s.wgray) ∧
      t.w_fresh = false ∧ t.r_fresh = (s.r_fresh || decide (t.Rt ≠ s.Rt)))

/-! ### The invariant and what follows from it -/

/-- The invariant holds after reset, for every consistent configuration. (Its clause about the reset pin includes the recorded
results, whose reset values are the model's choice, log 5.) -/
def Obligations.InvariantHoldsAfterReset : Prop :=
  ∀ c : Config, c.consistent = true → Inv (State.resetWith c)

/-- Every step keeps the invariant. -/
def Obligations.EveryStepKeepsTheInvariant : Prop :=
  ∀ s t : State, Inv s → step s = .next t → Inv t

/-- Every operation is total (R110) and no POP reads an unwritten cell (R42): from a state of the invariant every event
answers a next state; under valid parameters so does every step, and every run of steps, whatever the environment
presents. -/
def Obligations.NoStepEverStops : Prop :=
  (∀ (e : EdgeIn) (s : State), Inv s → ∃ t, applyEdge e s = .next t ∧ Inv t) ∧
  (∀ s : State, Inv s → s.cfg.valid = true → ∃ t, step s = .next t) ∧
  (∀ (n : Nat) (s : State), Inv s → s.cfg.valid = true → ∃ t, steps n s = .next t ∧ Inv t)

/-- R40 (derived by the spec): the four totals, the two flags in terms of them, and the bound on the bytes stored. -/
def Obligations.ViewsStayInOrder : Prop :=
  ∀ s : State, Inv s →
    viewRs s ≤ s.Rt ∧ s.Rt ≤ viewWs s ∧ viewWs s ≤ s.Wt ∧ s.Wt ≤ viewRs s + s.cfg.fifo_depth ∧
    s.Wt - s.Rt ≤ s.cfg.fifo_depth ∧
    (wfull s = true ↔ s.Wt - viewRs s = s.cfg.fifo_depth) ∧ (rempty s = true ↔ s.Rt = viewWs s)

/-- R40: "`Ws` and `Rs` never decrease"; R98: the captured value never moves backwards. Over every edge but RESET. -/
def Obligations.ViewsNeverDecrease : Prop :=
  ∀ (e : EdgeIn) (s t : State), Inv s → edgeIsR e = false → applyEdge e s = .next t →
    viewWs s ≤ viewWs t ∧ viewRs s ≤ viewRs t ∧ viewWs1 s ≤ viewWs1 t ∧ viewRs1 s ≤ viewRs1 t ∧
    s.Wt ≤ t.Wt ∧ s.Rt ≤ t.Rt

/-- R42 (derived by the spec): the cell an accepted PUSH writes is not one the consumer may read, and the cell a
successful POP reads was written. -/
def Obligations.NoRaceOnACell : Prop :=
  ∀ s : State, Inv s →
    (wfull s = false → s.Wt - s.Rt < s.cfg.fifo_depth ∧ writeAddr s = s.Wt % s.cfg.fifo_depth ∧
      ∀ k, s.Rt ≤ k → k < viewWs s → k % s.cfg.fifo_depth ≠ writeAddr s) ∧
    (rempty s = false → s.Rt < viewWs s ∧ viewWs s ≤ s.Wt ∧ readAddr s = s.Rt % s.cfg.fifo_depth ∧
      ∃ b, s.mem.read (readAddr s) = some b)

/-- R43 (derived by the spec): a flag that is 0 is true of the bytes stored; and the pessimism is real: some reachable
state has `wfull` = 1 with a cell free, and some has `rempty` = 1 with a byte stored. -/
def Obligations.FlagsArePessimistic : Prop :=
  (∀ s : State, Inv s → (wfull s = false → s.Wt - s.Rt < s.cfg.fifo_depth) ∧ (rempty s = false → s.Rt < s.Wt)) ∧
  (∃ s : State, Inv s ∧ wfull s = true ∧ s.Wt - s.Rt < s.cfg.fifo_depth) ∧
  (∃ s : State, Inv s ∧ rempty s = true ∧ s.Rt < s.Wt)

/-- Every event keeps the invariant of the recorded run: the popped bytes are the first `Rt` accepted ones, and the
cells from `Rt` to `Wt - 1` hold the rest. -/
def Obligations.EveryEdgeKeepsTheQueueContents : Prop :=
  ∀ (r r' : Run) (e : EdgeIn), RunInv r → r.edge e = some r' → RunInv r'

/-- R36 (derived by the spec): FIFO order, no loss after acceptance, no duplication, from any state with an empty
queue (reset among them), under any interleaving of the two clocks, any operations and any draws, up to the next
RESET. -/
def Obligations.BytesLeaveInOrder : Prop :=
  ∀ (s : State) (es : List EdgeIn), Inv s → s.Wt = s.Rt → noReset es = true →
    ∃ r, Run.edges es (Run.start s) = some r ∧ r.popped = r.accepted.take r.popped.length ∧
      s.Wt + r.accepted.length = r.s.Wt ∧ s.Rt + r.popped.length = r.s.Rt ∧
      r.popped.length ≤ r.accepted.length ∧ r.accepted.length ≤ r.popped.length + s.cfg.fifo_depth ∧
      r.accepted.Sublist (presented es)

/-- R44 (derived by the spec): where the producer's view is current and no POP is presented, a burst's first
`FIFO_DEPTH - (Wt - Rt)` PUSHes are accepted and every later one is dropped; the burst never stops the machine. From
reset the first FIFO_DEPTH bytes are kept, byte `i` in cell `i`. The runs from reset rest on the model's choices that
the pin is released there (log 6) and that an unwritten cell reads as none (log 7). -/
def Obligations.BurstKeepsExactlyTheCapacity : Prop :=
  (∀ (s : State) (es : List EdgeIn), Inv s → s.rst = false → viewRs s = s.Rt → es.all noPoll = true →
    ∃ r, Run.edges es (Run.start s) = some r ∧
      r.accepted = (presented es).take (s.cfg.fifo_depth - (s.Wt - s.Rt)) ∧ r.s.Rt = s.Rt ∧
      r.s.Wt = s.Wt + r.accepted.length) ∧
  (∀ (c : Config) (es : List EdgeIn), c.consistent = true → es.all noPoll = true →
    ∃ r, Run.edges es (Run.start (State.resetWith c)) = some r ∧ r.accepted = (presented es).take c.fifo_depth ∧
      ∀ i < c.fifo_depth, r.s.mem.read i = (presented es)[i]?)

/-- R111, R104: a PUSH while `wfull` is dropped silently: no register but the producer's synchroniser moves, and the
bytes stored never exceed the depth. -/
def Obligations.OverflowIsASilentDrop : Prop :=
  ∀ (s t : State) (w : BitVec 9) (d : Bool), Inv s → s.rst = false → w.getLsbD 8 = true →
    applyEdge { word := .p w, stale := d } s = .next t →
    t.Wt - t.Rt ≤ t.cfg.fifo_depth ∧
    (wfull s = true → t = { s with draw := d, wq1_rgray := t.wq1_rgray, wq2_rgray := s.wq1_rgray, r_fresh := false }) ∧
    (wfull s = false → t.Wt = s.Wt + 1 ∧ t.mem.read (s.Wt % s.cfg.fifo_depth) = some (w.extractLsb' 0 8) ∧
      ∀ k, s.Rt ≤ k → k < s.Wt →
        t.mem.read (k % s.cfg.fifo_depth) = s.mem.read (k % s.cfg.fifo_depth))

/-- R105, R39 (derived by the spec): whatever else happens, three `EdgeC`s bring every byte accepted so far into the
consumer's view, and three `EdgeP`s every cell freed so far into the producer's. -/
def Obligations.CrossingTakesAtMostThreeEdges : Prop :=
  ∀ (s : State) (es : List EdgeIn) (r : Run), Inv s → s.rst = false → noReset es = true →
    Run.edges es (Run.start s) = some r →
    (3 ≤ countC es → s.Wt ≤ viewWs r.s) ∧ (3 ≤ countP es → s.Rt ≤ viewRs r.s)

/-- R39 (derived by the spec): a byte accepted into an empty queue is first popped at the third or the fourth `EdgeC`
that follows, if the consumer polls at every `EdgeC`: never earlier, never later. -/
def Obligations.PushedByteArrivesAtThirdOrFourthEdge : Prop :=
  ∀ (s : State) (d : Byte) (e : EdgeIn) (w : BitVec 9) (es : List EdgeIn) (r : Run),
    Inv s → s.rst = false → s.Wt = s.Rt → wfull s = false → e.word = .p w → writeOp w = .push d → noReset es = true →
    Run.edges (e :: es) (Run.start s) = some r →
    (countC es ≤ 2 → r.popped = []) ∧ (es.all polls = true → 4 ≤ countC es → r.popped.head? = some d)

/-- R39, the other direction (derived by the spec): after a POP from a full queue the first PUSH accepted is at the
third or the fourth `EdgeP` that follows, if the producer pushes at every `EdgeP`. -/
def Obligations.FreedCellArrivesAtThirdOrFourthEdge : Prop :=
  ∀ (s : State) (e : EdgeIn) (w : BitVec 4) (es : List EdgeIn) (r : Run),
    Inv s → s.rst = false → s.Wt = s.Rt + s.cfg.fifo_depth → e.word = .c w → readOp w = .pop → rempty s = false →
    noReset es = true → Run.edges (e :: es) (Run.start s) = some r →
    (countP es ≤ 2 → r.accepted = []) ∧
    (es.all pushes = true → 4 ≤ countP es → ∃ b, r.accepted.head? = some b ∧
      (some b = (presented es)[2]? ∨ some b = (presented es)[3]?))

/-- R41 (a contract the spec decides in D10): every edge of the register-level machine is a step of the abstract
contract, the operation first and then the view catching up, and a POP returns what the contract returns; RESET sets
the totals and the views to 0 and leaves `mem` (R130, R26). -/
def Obligations.MachineRefinesTheContract : Prop :=
  ∀ (e : EdgeIn) (s t : State), Inv s → s.rst = false → applyEdge e s = .next t →
    (∀ w d, e.word = .p w → writeOp w = .push d → ((contractOf s).push d).SyncR (contractOf t)) ∧
    (∀ w, e.word = .p w → writeOp w = .wnop → (contractOf s).SyncR (contractOf t)) ∧
    (∀ w, e.word = .c w → readOp w = .pop → (contractOf s).pop.SyncW (contractOf t) ∧
      ((contractOf s).popResult = none ↔ t.rd = .empty) ∧ ∀ b, (contractOf s).popResult = some b ↔ t.rd = .byte b) ∧
    (∀ w, e.word = .c w → readOp w = .rnop → (contractOf s).SyncW (contractOf t)) ∧
    (e.word = .r 1#1 → contractOf t = { contractOf s with Wt := 0, Rt := 0, Ws := 0, Rs := 0 })

/-! ### Between the agents -/

/-- R115 a: the two slots of one `EdgeC` touch disjoint state and both take full effect; neither has priority. -/
def Obligations.SlotsOfAnEdgeCommute : Prop :=
  ∀ (s : State) (qop rop : Instr), qop.slot = .qdec → rop.slot = .read →
    andThen (exec qop s) (exec rop) = andThen (exec rop s) (exec qop)

/-- R25, R119: an `EdgeP` writes nothing of the `clk_c` domain and an `EdgeC` nothing of the `clk_p` domain, whatever
the word. -/
def Obligations.DomainsWriteOnlyTheirOwn : Prop :=
  ∀ (e : EdgeIn) (s t : State), applyEdge e s = .next t →
    (edgeIsP e = true → t.q = s.q ∧ t.db_cnt = s.db_cnt ∧ t.rbin = s.rbin ∧ t.rgray = s.rgray ∧
      t.rq1_wgray = s.rq1_wgray ∧ t.rq2_wgray = s.rq2_wgray ∧ t.Rt = s.Rt ∧ t.evt = s.evt ∧ t.rd = s.rd ∧
      t.cfg = s.cfg ∧ t.rst = s.rst) ∧
    (edgeIsC e = true → t.mem = s.mem ∧ t.wbin = s.wbin ∧ t.wgray = s.wgray ∧ t.wq1_rgray = s.wq1_rgray ∧
      t.wq2_rgray = s.wq2_rgray ∧ t.Wt = s.Wt ∧ t.cfg = s.cfg ∧ t.rst = s.rst)

/-- R5, R102: QDEC and BQ share no state. Two states that agree on the decoder go on agreeing on it, whatever the queue
holds; two that agree on the queue go on agreeing on it, whatever the decoder holds. -/
def Obligations.UnitsShareNothing : Prop :=
  ∀ (e : EdgeIn) (s1 s2 t1 t2 : State), s1.cfg = s2.cfg → s1.rst = s2.rst →
    applyEdge e s1 = .next t1 → applyEdge e s2 = .next t2 →
    (s1.q = s2.q → s1.db_cnt = s2.db_cnt → s1.evt = s2.evt →
      t1.q = t2.q ∧ t1.db_cnt = t2.db_cnt ∧ t1.evt = t2.evt) ∧
    ({ s1 with q := s2.q, db_cnt := s2.db_cnt, evt := s2.evt, pending := s2.pending, edgeIx := s2.edgeIx } = s2 →
      { t1 with q := t2.q, db_cnt := t2.db_cnt, evt := t2.evt, pending := t2.pending, edgeIx := t2.edgeIx } = t2)
end

