-- ==== Sys2Proof/Laws/Gray.lean ====
section
/-! SUPPORT. The bits of `gray` and `ungray`, and the ranges of the pointer arithmetic. -/

namespace Sys2Proof.Machine

/-- Bit `i` of the Gray code is bit `i` xor bit `i + 1` of the word. -/
@[simp] theorem testBit_gray (b i : Nat) : (gray b).testBit i = Bool.xor (b.testBit i) (b.testBit (i + 1)) := by
  simp [gray, Nat.testBit_xor, Nat.testBit_shiftRight, Nat.add_comm]

@[simp] theorem gray_zero : gray 0 = 0 := rfl

theorem gray_lt {b n : Nat} (h : b < 2 ^ n) : gray b < 2 ^ n := by
  refine Nat.xor_lt_two_pow h (Nat.lt_of_le_of_lt ?_ h)
  rw [Nat.shiftRight_eq_div_pow]
  exact Nat.div_le_self b _

theorem ungrayBelow_lt (g n : Nat) (above : Bool) : ungrayBelow g n above < 2 ^ n := by
  induction n generalizing above with
  | zero => simp [ungrayBelow]
  | succ n ih =>
    have := ih (Bool.xor (g.testBit n) above)
    rw [ungrayBelow, Nat.pow_succ]
    split <;> omega

theorem ungray_lt (n g : Nat) : ungray n g < 2 ^ n := ungrayBelow_lt g n false

/-- The bits of an ungrayed word, from the top one down: the recurrence of R7. -/
theorem testBit_ungrayBelow (g n : Nat) (above : Bool) (i : Nat) (h : i < n) :
    (ungrayBelow g n above).testBit i =
      Bool.xor (g.testBit i) (if i + 1 = n then above else (ungrayBelow g n above).testBit (i + 1)) := by
  induction n generalizing above i with
  | zero => omega
  | succ n ih =>
    have hlt := ungrayBelow_lt g n (Bool.xor (g.testBit n) above)
    have low : ∀ j < n, (ungrayBelow g (n + 1) above).testBit j =
        (ungrayBelow g n (Bool.xor (g.testBit n) above)).testBit j := by
      intro j hj
      rw [ungrayBelow]
      split
      · rw [Nat.testBit_two_pow_add_gt hj]
      · simp
    have top : (ungrayBelow g (n + 1) above).testBit n = Bool.xor (g.testBit n) above := by
      rw [ungrayBelow]
      split
      · rename_i hb
        rw [Nat.testBit_two_pow_add_eq, Nat.testBit_lt_two_pow hlt, hb]; rfl
      · rename_i hb
        rw [Nat.zero_add, Nat.testBit_lt_two_pow hlt]
        simpa using hb
    by_cases hi : i = n
    · subst hi; simpa using top
    · have hin : i < n := by omega
      rw [low i hin, ih (Bool.xor (g.testBit n) above) i hin]
      congr 1
      by_cases h1 : i + 1 = n
      · subst h1
        simp [top]
      · simp [h1, hi, low (i + 1) (by omega)]

theorem incMod_lt (n a : Nat) : incMod n a < 2 ^ n := Nat.mod_lt _ (Nat.two_pow_pos n)

theorem subMod_lt (n a b : Nat) : subMod n a b < 2 ^ n := Nat.mod_lt _ (Nat.two_pow_pos n)

/-- Subtraction modulo `2^n` gives the distance between two counts that are less than `2^n` apart. -/
theorem subMod_counts (n a b : Nat) (hba : b ≤ a) (hd : a - b < 2 ^ n) : subMod n (a % 2 ^ n) (b % 2 ^ n) = a - b := by
  have hp := Nat.two_pow_pos n
  have hb := Nat.mod_lt b hp
  unfold subMod
  rw [Nat.mod_mod, Nat.mod_add_mod, Nat.mod_eq_iff]
  refine .inr ⟨hd, b / 2 ^ n + 1, ?_⟩
  have := Nat.div_add_mod b (2 ^ n)
  rw [Nat.mul_add, Nat.mul_one]
  omega

theorem incMod_count (n a : Nat) : incMod n (a % 2 ^ n) = (a + 1) % 2 ^ n := by
  simp [incMod]

end Sys2Proof.Machine
end

