-- ==== Sys2Proof/Laws/State.lean ====
section
/-! SUPPORT. One lemma per field per update of State, so that no proof unfolds a record update. -/

namespace Sys2Proof.Machine

/-! ### setQdec -/

@[simp] theorem State.setQdec_cfg (s : State) (q : BitVec 2) (n : Nat) (e : Option Message) : (s.setQdec q n e).cfg = s.cfg := rfl
@[simp] theorem State.setQdec_q (s : State) (q : BitVec 2) (n : Nat) (e : Option Message) : (s.setQdec q n e).q = q := rfl
@[simp] theorem State.setQdec_db_cnt (s : State) (q : BitVec 2) (n : Nat) (e : Option Message) : (s.setQdec q n e).db_cnt = n := rfl
@[simp] theorem State.setQdec_mem (s : State) (q : BitVec 2) (n : Nat) (e : Option Message) : (s.setQdec q n e).mem = s.mem := rfl
@[simp] theorem State.setQdec_wbin (s : State) (q : BitVec 2) (n : Nat) (e : Option Message) : (s.setQdec q n e).wbin = s.wbin := rfl
@[simp] theorem State.setQdec_wgray (s : State) (q : BitVec 2) (n : Nat) (e : Option Message) : (s.setQdec q n e).wgray = s.wgray := rfl
@[simp] theorem State.setQdec_rbin (s : State) (q : BitVec 2) (n : Nat) (e : Option Message) : (s.setQdec q n e).rbin = s.rbin := rfl
@[simp] theorem State.setQdec_rgray (s : State) (q : BitVec 2) (n : Nat) (e : Option Message) : (s.setQdec q n e).rgray = s.rgray := rfl
@[simp] theorem State.setQdec_wq1_rgray (s : State) (q : BitVec 2) (n : Nat) (e : Option Message) : (s.setQdec q n e).wq1_rgray = s.wq1_rgray := rfl
@[simp] theorem State.setQdec_wq2_rgray (s : State) (q : BitVec 2) (n : Nat) (e : Option Message) : (s.setQdec q n e).wq2_rgray = s.wq2_rgray := rfl
@[simp] theorem State.setQdec_rq1_wgray (s : State) (q : BitVec 2) (n : Nat) (e : Option Message) : (s.setQdec q n e).rq1_wgray = s.rq1_wgray := rfl
@[simp] theorem State.setQdec_rq2_wgray (s : State) (q : BitVec 2) (n : Nat) (e : Option Message) : (s.setQdec q n e).rq2_wgray = s.rq2_wgray := rfl
@[simp] theorem State.setQdec_w_fresh (s : State) (q : BitVec 2) (n : Nat) (e : Option Message) : (s.setQdec q n e).w_fresh = s.w_fresh := rfl
@[simp] theorem State.setQdec_r_fresh (s : State) (q : BitVec 2) (n : Nat) (e : Option Message) : (s.setQdec q n e).r_fresh = s.r_fresh := rfl
@[simp] theorem State.setQdec_Wt (s : State) (q : BitVec 2) (n : Nat) (e : Option Message) : (s.setQdec q n e).Wt = s.Wt := rfl
@[simp] theorem State.setQdec_Rt (s : State) (q : BitVec 2) (n : Nat) (e : Option Message) : (s.setQdec q n e).Rt = s.Rt := rfl
@[simp] theorem State.setQdec_rst (s : State) (q : BitVec 2) (n : Nat) (e : Option Message) : (s.setQdec q n e).rst = s.rst := rfl
@[simp] theorem State.setQdec_evt (s : State) (q : BitVec 2) (n : Nat) (e : Option Message) : (s.setQdec q n e).evt = e := rfl
@[simp] theorem State.setQdec_rd (s : State) (q : BitVec 2) (n : Nat) (e : Option Message) : (s.setQdec q n e).rd = s.rd := rfl
@[simp] theorem State.setQdec_draw (s : State) (q : BitVec 2) (n : Nat) (e : Option Message) : (s.setQdec q n e).draw = s.draw := rfl
@[simp] theorem State.setQdec_pending (s : State) (q : BitVec 2) (n : Nat) (e : Option Message) : (s.setQdec q n e).pending = s.pending := rfl
@[simp] theorem State.setQdec_edgeIx (s : State) (q : BitVec 2) (n : Nat) (e : Option Message) : (s.setQdec q n e).edgeIx = s.edgeIx := rfl

/-! ### setWrite -/

@[simp] theorem State.setWrite_cfg (s : State) (m : Memory) (p : Nat) : (s.setWrite m p).cfg = s.cfg := rfl
@[simp] theorem State.setWrite_q (s : State) (m : Memory) (p : Nat) : (s.setWrite m p).q = s.q := rfl
@[simp] theorem State.setWrite_db_cnt (s : State) (m : Memory) (p : Nat) : (s.setWrite m p).db_cnt = s.db_cnt := rfl
@[simp] theorem State.setWrite_mem (s : State) (m : Memory) (p : Nat) : (s.setWrite m p).mem = m := rfl
@[simp] theorem State.setWrite_wbin (s : State) (m : Memory) (p : Nat) : (s.setWrite m p).wbin = p := rfl
@[simp] theorem State.setWrite_wgray (s : State) (m : Memory) (p : Nat) : (s.setWrite m p).wgray = gray p := rfl
@[simp] theorem State.setWrite_rbin (s : State) (m : Memory) (p : Nat) : (s.setWrite m p).rbin = s.rbin := rfl
@[simp] theorem State.setWrite_rgray (s : State) (m : Memory) (p : Nat) : (s.setWrite m p).rgray = s.rgray := rfl
@[simp] theorem State.setWrite_wq1_rgray (s : State) (m : Memory) (p : Nat) : (s.setWrite m p).wq1_rgray = s.wq1_rgray := rfl
@[simp] theorem State.setWrite_wq2_rgray (s : State) (m : Memory) (p : Nat) : (s.setWrite m p).wq2_rgray = s.wq2_rgray := rfl
@[simp] theorem State.setWrite_rq1_wgray (s : State) (m : Memory) (p : Nat) : (s.setWrite m p).rq1_wgray = s.rq1_wgray := rfl
@[simp] theorem State.setWrite_rq2_wgray (s : State) (m : Memory) (p : Nat) : (s.setWrite m p).rq2_wgray = s.rq2_wgray := rfl
@[simp] theorem State.setWrite_w_fresh (s : State) (m : Memory) (p : Nat) : (s.setWrite m p).w_fresh = true := rfl
@[simp] theorem State.setWrite_r_fresh (s : State) (m : Memory) (p : Nat) : (s.setWrite m p).r_fresh = s.r_fresh := rfl
@[simp] theorem State.setWrite_Wt (s : State) (m : Memory) (p : Nat) : (s.setWrite m p).Wt = s.Wt + 1 := rfl
@[simp] theorem State.setWrite_Rt (s : State) (m : Memory) (p : Nat) : (s.setWrite m p).Rt = s.Rt := rfl
@[simp] theorem State.setWrite_rst (s : State) (m : Memory) (p : Nat) : (s.setWrite m p).rst = s.rst := rfl
@[simp] theorem State.setWrite_evt (s : State) (m : Memory) (p : Nat) : (s.setWrite m p).evt = s.evt := rfl
@[simp] theorem State.setWrite_rd (s : State) (m : Memory) (p : Nat) : (s.setWrite m p).rd = s.rd := rfl
@[simp] theorem State.setWrite_draw (s : State) (m : Memory) (p : Nat) : (s.setWrite m p).draw = s.draw := rfl
@[simp] theorem State.setWrite_pending (s : State) (m : Memory) (p : Nat) : (s.setWrite m p).pending = s.pending := rfl
@[simp] theorem State.setWrite_edgeIx (s : State) (m : Memory) (p : Nat) : (s.setWrite m p).edgeIx = s.edgeIx := rfl

/-! ### setRead -/

@[simp] theorem State.setRead_cfg (s : State) (p : Nat) : (s.setRead p).cfg = s.cfg := rfl
@[simp] theorem State.setRead_q (s : State) (p : Nat) : (s.setRead p).q = s.q := rfl
@[simp] theorem State.setRead_db_cnt (s : State) (p : Nat) : (s.setRead p).db_cnt = s.db_cnt := rfl
@[simp] theorem State.setRead_mem (s : State) (p : Nat) : (s.setRead p).mem = s.mem := rfl
@[simp] theorem State.setRead_wbin (s : State) (p : Nat) : (s.setRead p).wbin = s.wbin := rfl
@[simp] theorem State.setRead_wgray (s : State) (p : Nat) : (s.setRead p).wgray = s.wgray := rfl
@[simp] theorem State.setRead_rbin (s : State) (p : Nat) : (s.setRead p).rbin = p := rfl
@[simp] theorem State.setRead_rgray (s : State) (p : Nat) : (s.setRead p).rgray = gray p := rfl
@[simp] theorem State.setRead_wq1_rgray (s : State) (p : Nat) : (s.setRead p).wq1_rgray = s.wq1_rgray := rfl
@[simp] theorem State.setRead_wq2_rgray (s : State) (p : Nat) : (s.setRead p).wq2_rgray = s.wq2_rgray := rfl
@[simp] theorem State.setRead_rq1_wgray (s : State) (p : Nat) : (s.setRead p).rq1_wgray = s.rq1_wgray := rfl
@[simp] theorem State.setRead_rq2_wgray (s : State) (p : Nat) : (s.setRead p).rq2_wgray = s.rq2_wgray := rfl
@[simp] theorem State.setRead_w_fresh (s : State) (p : Nat) : (s.setRead p).w_fresh = s.w_fresh := rfl
@[simp] theorem State.setRead_r_fresh (s : State) (p : Nat) : (s.setRead p).r_fresh = true := rfl
@[simp] theorem State.setRead_Wt (s : State) (p : Nat) : (s.setRead p).Wt = s.Wt := rfl
@[simp] theorem State.setRead_Rt (s : State) (p : Nat) : (s.setRead p).Rt = s.Rt + 1 := rfl
@[simp] theorem State.setRead_rst (s : State) (p : Nat) : (s.setRead p).rst = s.rst := rfl
@[simp] theorem State.setRead_evt (s : State) (p : Nat) : (s.setRead p).evt = s.evt := rfl
@[simp] theorem State.setRead_rd (s : State) (p : Nat) : (s.setRead p).rd = s.rd := rfl
@[simp] theorem State.setRead_draw (s : State) (p : Nat) : (s.setRead p).draw = s.draw := rfl
@[simp] theorem State.setRead_pending (s : State) (p : Nat) : (s.setRead p).pending = s.pending := rfl
@[simp] theorem State.setRead_edgeIx (s : State) (p : Nat) : (s.setRead p).edgeIx = s.edgeIx := rfl

/-! ### setRd -/

@[simp] theorem State.setRd_cfg (s : State) (r : ReadResult) : (s.setRd r).cfg = s.cfg := rfl
@[simp] theorem State.setRd_q (s : State) (r : ReadResult) : (s.setRd r).q = s.q := rfl
@[simp] theorem State.setRd_db_cnt (s : State) (r : ReadResult) : (s.setRd r).db_cnt = s.db_cnt := rfl
@[simp] theorem State.setRd_mem (s : State) (r : ReadResult) : (s.setRd r).mem = s.mem := rfl
@[simp] theorem State.setRd_wbin (s : State) (r : ReadResult) : (s.setRd r).wbin = s.wbin := rfl
@[simp] theorem State.setRd_wgray (s : State) (r : ReadResult) : (s.setRd r).wgray = s.wgray := rfl
@[simp] theorem State.setRd_rbin (s : State) (r : ReadResult) : (s.setRd r).rbin = s.rbin := rfl
@[simp] theorem State.setRd_rgray (s : State) (r : ReadResult) : (s.setRd r).rgray = s.rgray := rfl
@[simp] theorem State.setRd_wq1_rgray (s : State) (r : ReadResult) : (s.setRd r).wq1_rgray = s.wq1_rgray := rfl
@[simp] theorem State.setRd_wq2_rgray (s : State) (r : ReadResult) : (s.setRd r).wq2_rgray = s.wq2_rgray := rfl
@[simp] theorem State.setRd_rq1_wgray (s : State) (r : ReadResult) : (s.setRd r).rq1_wgray = s.rq1_wgray := rfl
@[simp] theorem State.setRd_rq2_wgray (s : State) (r : ReadResult) : (s.setRd r).rq2_wgray = s.rq2_wgray := rfl
@[simp] theorem State.setRd_w_fresh (s : State) (r : ReadResult) : (s.setRd r).w_fresh = s.w_fresh := rfl
@[simp] theorem State.setRd_r_fresh (s : State) (r : ReadResult) : (s.setRd r).r_fresh = s.r_fresh := rfl
@[simp] theorem State.setRd_Wt (s : State) (r : ReadResult) : (s.setRd r).Wt = s.Wt := rfl
@[simp] theorem State.setRd_Rt (s : State) (r : ReadResult) : (s.setRd r).Rt = s.Rt := rfl
@[simp] theorem State.setRd_rst (s : State) (r : ReadResult) : (s.setRd r).rst = s.rst := rfl
@[simp] theorem State.setRd_evt (s : State) (r : ReadResult) : (s.setRd r).evt = s.evt := rfl
@[simp] theorem State.setRd_rd (s : State) (r : ReadResult) : (s.setRd r).rd = r := rfl
@[simp] theorem State.setRd_draw (s : State) (r : ReadResult) : (s.setRd r).draw = s.draw := rfl
@[simp] theorem State.setRd_pending (s : State) (r : ReadResult) : (s.setRd r).pending = s.pending := rfl
@[simp] theorem State.setRd_edgeIx (s : State) (r : ReadResult) : (s.setRd r).edgeIx = s.edgeIx := rfl

/-! ### shiftP -/

@[simp] theorem State.shiftP_cfg (s : State) : (s.shiftP).cfg = s.cfg := rfl
@[simp] theorem State.shiftP_q (s : State) : (s.shiftP).q = s.q := rfl
@[simp] theorem State.shiftP_db_cnt (s : State) : (s.shiftP).db_cnt = s.db_cnt := rfl
@[simp] theorem State.shiftP_mem (s : State) : (s.shiftP).mem = s.mem := rfl
@[simp] theorem State.shiftP_wbin (s : State) : (s.shiftP).wbin = s.wbin := rfl
@[simp] theorem State.shiftP_wgray (s : State) : (s.shiftP).wgray = s.wgray := rfl
@[simp] theorem State.shiftP_rbin (s : State) : (s.shiftP).rbin = s.rbin := rfl
@[simp] theorem State.shiftP_rgray (s : State) : (s.shiftP).rgray = s.rgray := rfl
@[simp] theorem State.shiftP_wq1_rgray (s : State) : (s.shiftP).wq1_rgray = capR s := rfl
@[simp] theorem State.shiftP_wq2_rgray (s : State) : (s.shiftP).wq2_rgray = s.wq1_rgray := rfl
@[simp] theorem State.shiftP_rq1_wgray (s : State) : (s.shiftP).rq1_wgray = s.rq1_wgray := rfl
@[simp] theorem State.shiftP_rq2_wgray (s : State) : (s.shiftP).rq2_wgray = s.rq2_wgray := rfl
@[simp] theorem State.shiftP_w_fresh (s : State) : (s.shiftP).w_fresh = s.w_fresh := rfl
@[simp] theorem State.shiftP_r_fresh (s : State) : (s.shiftP).r_fresh = false := rfl
@[simp] theorem State.shiftP_Wt (s : State) : (s.shiftP).Wt = s.Wt := rfl
@[simp] theorem State.shiftP_Rt (s : State) : (s.shiftP).Rt = s.Rt := rfl
@[simp] theorem State.shiftP_rst (s : State) : (s.shiftP).rst = s.rst := rfl
@[simp] theorem State.shiftP_evt (s : State) : (s.shiftP).evt = s.evt := rfl
@[simp] theorem State.shiftP_rd (s : State) : (s.shiftP).rd = s.rd := rfl
@[simp] theorem State.shiftP_draw (s : State) : (s.shiftP).draw = s.draw := rfl
@[simp] theorem State.shiftP_pending (s : State) : (s.shiftP).pending = s.pending := rfl
@[simp] theorem State.shiftP_edgeIx (s : State) : (s.shiftP).edgeIx = s.edgeIx := rfl

/-! ### shiftC -/

@[simp] theorem State.shiftC_cfg (s : State) : (s.shiftC).cfg = s.cfg := rfl
@[simp] theorem State.shiftC_q (s : State) : (s.shiftC).q = s.q := rfl
@[simp] theorem State.shiftC_db_cnt (s : State) : (s.shiftC).db_cnt = s.db_cnt := rfl
@[simp] theorem State.shiftC_mem (s : State) : (s.shiftC).mem = s.mem := rfl
@[simp] theorem State.shiftC_wbin (s : State) : (s.shiftC).wbin = s.wbin := rfl
@[simp] theorem State.shiftC_wgray (s : State) : (s.shiftC).wgray = s.wgray := rfl
@[simp] theorem State.shiftC_rbin (s : State) : (s.shiftC).rbin = s.rbin := rfl
@[simp] theorem State.shiftC_rgray (s : State) : (s.shiftC).rgray = s.rgray := rfl
@[simp] theorem State.shiftC_wq1_rgray (s : State) : (s.shiftC).wq1_rgray = s.wq1_rgray := rfl
@[simp] theorem State.shiftC_wq2_rgray (s : State) : (s.shiftC).wq2_rgray = s.wq2_rgray := rfl
@[simp] theorem State.shiftC_rq1_wgray (s : State) : (s.shiftC).rq1_wgray = capW s := rfl
@[simp] theorem State.shiftC_rq2_wgray (s : State) : (s.shiftC).rq2_wgray = s.rq1_wgray := rfl
@[simp] theorem State.shiftC_w_fresh (s : State) : (s.shiftC).w_fresh = false := rfl
@[simp] theorem State.shiftC_r_fresh (s : State) : (s.shiftC).r_fresh = s.r_fresh := rfl
@[simp] theorem State.shiftC_Wt (s : State) : (s.shiftC).Wt = s.Wt := rfl
@[simp] theorem State.shiftC_Rt (s : State) : (s.shiftC).Rt = s.Rt := rfl
@[simp] theorem State.shiftC_rst (s : State) : (s.shiftC).rst = s.rst := rfl
@[simp] theorem State.shiftC_evt (s : State) : (s.shiftC).evt = s.evt := rfl
@[simp] theorem State.shiftC_rd (s : State) : (s.shiftC).rd = s.rd := rfl
@[simp] theorem State.shiftC_draw (s : State) : (s.shiftC).draw = s.draw := rfl
@[simp] theorem State.shiftC_pending (s : State) : (s.shiftC).pending = s.pending := rfl
@[simp] theorem State.shiftC_edgeIx (s : State) : (s.shiftC).edgeIx = s.edgeIx := rfl

/-! ### toReset -/

@[simp] theorem State.toReset_cfg (s : State) : (s.toReset).cfg = s.cfg := rfl
@[simp] theorem State.toReset_q (s : State) : (s.toReset).q = 0#2 := rfl
@[simp] theorem State.toReset_db_cnt (s : State) : (s.toReset).db_cnt = 0 := rfl
@[simp] theorem State.toReset_mem (s : State) : (s.toReset).mem = s.mem := rfl
@[simp] theorem State.toReset_wbin (s : State) : (s.toReset).wbin = 0 := rfl
@[simp] theorem State.toReset_wgray (s : State) : (s.toReset).wgray = 0 := rfl
@[simp] theorem State.toReset_rbin (s : State) : (s.toReset).rbin = 0 := rfl
@[simp] theorem State.toReset_rgray (s : State) : (s.toReset).rgray = 0 := rfl
@[simp] theorem State.toReset_wq1_rgray (s : State) : (s.toReset).wq1_rgray = 0 := rfl
@[simp] theorem State.toReset_wq2_rgray (s : State) : (s.toReset).wq2_rgray = 0 := rfl
@[simp] theorem State.toReset_rq1_wgray (s : State) : (s.toReset).rq1_wgray = 0 := rfl
@[simp] theorem State.toReset_rq2_wgray (s : State) : (s.toReset).rq2_wgray = 0 := rfl
@[simp] theorem State.toReset_w_fresh (s : State) : (s.toReset).w_fresh = false := rfl
@[simp] theorem State.toReset_r_fresh (s : State) : (s.toReset).r_fresh = false := rfl
@[simp] theorem State.toReset_Wt (s : State) : (s.toReset).Wt = 0 := rfl
@[simp] theorem State.toReset_Rt (s : State) : (s.toReset).Rt = 0 := rfl
@[simp] theorem State.toReset_rst (s : State) : (s.toReset).rst = s.rst := rfl
@[simp] theorem State.toReset_evt (s : State) : (s.toReset).evt = none := rfl
@[simp] theorem State.toReset_rd (s : State) : (s.toReset).rd = .noCall := rfl
@[simp] theorem State.toReset_draw (s : State) : (s.toReset).draw = s.draw := rfl
@[simp] theorem State.toReset_pending (s : State) : (s.toReset).pending = s.pending := rfl
@[simp] theorem State.toReset_edgeIx (s : State) : (s.toReset).edgeIx = s.edgeIx := rfl

/-! ### setRst -/

@[simp] theorem State.setRst_cfg (s : State) (l : Bool) : (s.setRst l).cfg = s.cfg := rfl
@[simp] theorem State.setRst_q (s : State) (l : Bool) : (s.setRst l).q = s.q := rfl
@[simp] theorem State.setRst_db_cnt (s : State) (l : Bool) : (s.setRst l).db_cnt = s.db_cnt := rfl
@[simp] theorem State.setRst_mem (s : State) (l : Bool) : (s.setRst l).mem = s.mem := rfl
@[simp] theorem State.setRst_wbin (s : State) (l : Bool) : (s.setRst l).wbin = s.wbin := rfl
@[simp] theorem State.setRst_wgray (s : State) (l : Bool) : (s.setRst l).wgray = s.wgray := rfl
@[simp] theorem State.setRst_rbin (s : State) (l : Bool) : (s.setRst l).rbin = s.rbin := rfl
@[simp] theorem State.setRst_rgray (s : State) (l : Bool) : (s.setRst l).rgray = s.rgray := rfl
@[simp] theorem State.setRst_wq1_rgray (s : State) (l : Bool) : (s.setRst l).wq1_rgray = s.wq1_rgray := rfl
@[simp] theorem State.setRst_wq2_rgray (s : State) (l : Bool) : (s.setRst l).wq2_rgray = s.wq2_rgray := rfl
@[simp] theorem State.setRst_rq1_wgray (s : State) (l : Bool) : (s.setRst l).rq1_wgray = s.rq1_wgray := rfl
@[simp] theorem State.setRst_rq2_wgray (s : State) (l : Bool) : (s.setRst l).rq2_wgray = s.rq2_wgray := rfl
@[simp] theorem State.setRst_w_fresh (s : State) (l : Bool) : (s.setRst l).w_fresh = s.w_fresh := rfl
@[simp] theorem State.setRst_r_fresh (s : State) (l : Bool) : (s.setRst l).r_fresh = s.r_fresh := rfl
@[simp] theorem State.setRst_Wt (s : State) (l : Bool) : (s.setRst l).Wt = s.Wt := rfl
@[simp] theorem State.setRst_Rt (s : State) (l : Bool) : (s.setRst l).Rt = s.Rt := rfl
@[simp] theorem State.setRst_rst (s : State) (l : Bool) : (s.setRst l).rst = l := rfl
@[simp] theorem State.setRst_evt (s : State) (l : Bool) : (s.setRst l).evt = s.evt := rfl
@[simp] theorem State.setRst_rd (s : State) (l : Bool) : (s.setRst l).rd = s.rd := rfl
@[simp] theorem State.setRst_draw (s : State) (l : Bool) : (s.setRst l).draw = s.draw := rfl
@[simp] theorem State.setRst_pending (s : State) (l : Bool) : (s.setRst l).pending = s.pending := rfl
@[simp] theorem State.setRst_edgeIx (s : State) (l : Bool) : (s.setRst l).edgeIx = s.edgeIx := rfl

/-! ### setDraw -/

@[simp] theorem State.setDraw_cfg (s : State) (d : Bool) : (s.setDraw d).cfg = s.cfg := rfl
@[simp] theorem State.setDraw_q (s : State) (d : Bool) : (s.setDraw d).q = s.q := rfl
@[simp] theorem State.setDraw_db_cnt (s : State) (d : Bool) : (s.setDraw d).db_cnt = s.db_cnt := rfl
@[simp] theorem State.setDraw_mem (s : State) (d : Bool) : (s.setDraw d).mem = s.mem := rfl
@[simp] theorem State.setDraw_wbin (s : State) (d : Bool) : (s.setDraw d).wbin = s.wbin := rfl
@[simp] theorem State.setDraw_wgray (s : State) (d : Bool) : (s.setDraw d).wgray = s.wgray := rfl
@[simp] theorem State.setDraw_rbin (s : State) (d : Bool) : (s.setDraw d).rbin = s.rbin := rfl
@[simp] theorem State.setDraw_rgray (s : State) (d : Bool) : (s.setDraw d).rgray = s.rgray := rfl
@[simp] theorem State.setDraw_wq1_rgray (s : State) (d : Bool) : (s.setDraw d).wq1_rgray = s.wq1_rgray := rfl
@[simp] theorem State.setDraw_wq2_rgray (s : State) (d : Bool) : (s.setDraw d).wq2_rgray = s.wq2_rgray := rfl
@[simp] theorem State.setDraw_rq1_wgray (s : State) (d : Bool) : (s.setDraw d).rq1_wgray = s.rq1_wgray := rfl
@[simp] theorem State.setDraw_rq2_wgray (s : State) (d : Bool) : (s.setDraw d).rq2_wgray = s.rq2_wgray := rfl
@[simp] theorem State.setDraw_w_fresh (s : State) (d : Bool) : (s.setDraw d).w_fresh = s.w_fresh := rfl
@[simp] theorem State.setDraw_r_fresh (s : State) (d : Bool) : (s.setDraw d).r_fresh = s.r_fresh := rfl
@[simp] theorem State.setDraw_Wt (s : State) (d : Bool) : (s.setDraw d).Wt = s.Wt := rfl
@[simp] theorem State.setDraw_Rt (s : State) (d : Bool) : (s.setDraw d).Rt = s.Rt := rfl
@[simp] theorem State.setDraw_rst (s : State) (d : Bool) : (s.setDraw d).rst = s.rst := rfl
@[simp] theorem State.setDraw_evt (s : State) (d : Bool) : (s.setDraw d).evt = s.evt := rfl
@[simp] theorem State.setDraw_rd (s : State) (d : Bool) : (s.setDraw d).rd = s.rd := rfl
@[simp] theorem State.setDraw_draw (s : State) (d : Bool) : (s.setDraw d).draw = d := rfl
@[simp] theorem State.setDraw_pending (s : State) (d : Bool) : (s.setDraw d).pending = s.pending := rfl
@[simp] theorem State.setDraw_edgeIx (s : State) (d : Bool) : (s.setDraw d).edgeIx = s.edgeIx := rfl

/-! ### setPending -/

@[simp] theorem State.setPending_cfg (s : State) (es : List EdgeIn) : (s.setPending es).cfg = s.cfg := rfl
@[simp] theorem State.setPending_q (s : State) (es : List EdgeIn) : (s.setPending es).q = s.q := rfl
@[simp] theorem State.setPending_db_cnt (s : State) (es : List EdgeIn) : (s.setPending es).db_cnt = s.db_cnt := rfl
@[simp] theorem State.setPending_mem (s : State) (es : List EdgeIn) : (s.setPending es).mem = s.mem := rfl
@[simp] theorem State.setPending_wbin (s : State) (es : List EdgeIn) : (s.setPending es).wbin = s.wbin := rfl
@[simp] theorem State.setPending_wgray (s : State) (es : List EdgeIn) : (s.setPending es).wgray = s.wgray := rfl
@[simp] theorem State.setPending_rbin (s : State) (es : List EdgeIn) : (s.setPending es).rbin = s.rbin := rfl
@[simp] theorem State.setPending_rgray (s : State) (es : List EdgeIn) : (s.setPending es).rgray = s.rgray := rfl
@[simp] theorem State.setPending_wq1_rgray (s : State) (es : List EdgeIn) : (s.setPending es).wq1_rgray = s.wq1_rgray := rfl
@[simp] theorem State.setPending_wq2_rgray (s : State) (es : List EdgeIn) : (s.setPending es).wq2_rgray = s.wq2_rgray := rfl
@[simp] theorem State.setPending_rq1_wgray (s : State) (es : List EdgeIn) : (s.setPending es).rq1_wgray = s.rq1_wgray := rfl
@[simp] theorem State.setPending_rq2_wgray (s : State) (es : List EdgeIn) : (s.setPending es).rq2_wgray = s.rq2_wgray := rfl
@[simp] theorem State.setPending_w_fresh (s : State) (es : List EdgeIn) : (s.setPending es).w_fresh = s.w_fresh := rfl
@[simp] theorem State.setPending_r_fresh (s : State) (es : List EdgeIn) : (s.setPending es).r_fresh = s.r_fresh := rfl
@[simp] theorem State.setPending_Wt (s : State) (es : List EdgeIn) : (s.setPending es).Wt = s.Wt := rfl
@[simp] theorem State.setPending_Rt (s : State) (es : List EdgeIn) : (s.setPending es).Rt = s.Rt := rfl
@[simp] theorem State.setPending_rst (s : State) (es : List EdgeIn) : (s.setPending es).rst = s.rst := rfl
@[simp] theorem State.setPending_evt (s : State) (es : List EdgeIn) : (s.setPending es).evt = s.evt := rfl
@[simp] theorem State.setPending_rd (s : State) (es : List EdgeIn) : (s.setPending es).rd = s.rd := rfl
@[simp] theorem State.setPending_draw (s : State) (es : List EdgeIn) : (s.setPending es).draw = s.draw := rfl
@[simp] theorem State.setPending_pending (s : State) (es : List EdgeIn) : (s.setPending es).pending = es := rfl
@[simp] theorem State.setPending_edgeIx (s : State) (es : List EdgeIn) : (s.setPending es).edgeIx = s.edgeIx := rfl

/-! ### setEdgeIx -/

@[simp] theorem State.setEdgeIx_cfg (s : State) (n : Nat) : (s.setEdgeIx n).cfg = s.cfg := rfl
@[simp] theorem State.setEdgeIx_q (s : State) (n : Nat) : (s.setEdgeIx n).q = s.q := rfl
@[simp] theorem State.setEdgeIx_db_cnt (s : State) (n : Nat) : (s.setEdgeIx n).db_cnt = s.db_cnt := rfl
@[simp] theorem State.setEdgeIx_mem (s : State) (n : Nat) : (s.setEdgeIx n).mem = s.mem := rfl
@[simp] theorem State.setEdgeIx_wbin (s : State) (n : Nat) : (s.setEdgeIx n).wbin = s.wbin := rfl
@[simp] theorem State.setEdgeIx_wgray (s : State) (n : Nat) : (s.setEdgeIx n).wgray = s.wgray := rfl
@[simp] theorem State.setEdgeIx_rbin (s : State) (n : Nat) : (s.setEdgeIx n).rbin = s.rbin := rfl
@[simp] theorem State.setEdgeIx_rgray (s : State) (n : Nat) : (s.setEdgeIx n).rgray = s.rgray := rfl
@[simp] theorem State.setEdgeIx_wq1_rgray (s : State) (n : Nat) : (s.setEdgeIx n).wq1_rgray = s.wq1_rgray := rfl
@[simp] theorem State.setEdgeIx_wq2_rgray (s : State) (n : Nat) : (s.setEdgeIx n).wq2_rgray = s.wq2_rgray := rfl
@[simp] theorem State.setEdgeIx_rq1_wgray (s : State) (n : Nat) : (s.setEdgeIx n).rq1_wgray = s.rq1_wgray := rfl
@[simp] theorem State.setEdgeIx_rq2_wgray (s : State) (n : Nat) : (s.setEdgeIx n).rq2_wgray = s.rq2_wgray := rfl
@[simp] theorem State.setEdgeIx_w_fresh (s : State) (n : Nat) : (s.setEdgeIx n).w_fresh = s.w_fresh := rfl
@[simp] theorem State.setEdgeIx_r_fresh (s : State) (n : Nat) : (s.setEdgeIx n).r_fresh = s.r_fresh := rfl
@[simp] theorem State.setEdgeIx_Wt (s : State) (n : Nat) : (s.setEdgeIx n).Wt = s.Wt := rfl
@[simp] theorem State.setEdgeIx_Rt (s : State) (n : Nat) : (s.setEdgeIx n).Rt = s.Rt := rfl
@[simp] theorem State.setEdgeIx_rst (s : State) (n : Nat) : (s.setEdgeIx n).rst = s.rst := rfl
@[simp] theorem State.setEdgeIx_evt (s : State) (n : Nat) : (s.setEdgeIx n).evt = s.evt := rfl
@[simp] theorem State.setEdgeIx_rd (s : State) (n : Nat) : (s.setEdgeIx n).rd = s.rd := rfl
@[simp] theorem State.setEdgeIx_draw (s : State) (n : Nat) : (s.setEdgeIx n).draw = s.draw := rfl
@[simp] theorem State.setEdgeIx_pending (s : State) (n : Nat) : (s.setEdgeIx n).pending = s.pending := rfl
@[simp] theorem State.setEdgeIx_edgeIx (s : State) (n : Nat) : (s.setEdgeIx n).edgeIx = n := rfl

/-! ### takeEdge: only `pending` and `edgeIx` move -/

@[simp] theorem State.takeEdge_cfg (s : State) : s.takeEdge.cfg = s.cfg := by
  unfold State.takeEdge; split <;> rfl
@[simp] theorem State.takeEdge_q (s : State) : s.takeEdge.q = s.q := by
  unfold State.takeEdge; split <;> rfl
@[simp] theorem State.takeEdge_db_cnt (s : State) : s.takeEdge.db_cnt = s.db_cnt := by
  unfold State.takeEdge; split <;> rfl
@[simp] theorem State.takeEdge_mem (s : State) : s.takeEdge.mem = s.mem := by
  unfold State.takeEdge; split <;> rfl
@[simp] theorem State.takeEdge_wbin (s : State) : s.takeEdge.wbin = s.wbin := by
  unfold State.takeEdge; split <;> rfl
@[simp] theorem State.takeEdge_wgray (s : State) : s.takeEdge.wgray = s.wgray := by
  unfold State.takeEdge; split <;> rfl
@[simp] theorem State.takeEdge_rbin (s : State) : s.takeEdge.rbin = s.rbin := by
  unfold State.takeEdge; split <;> rfl
@[simp] theorem State.takeEdge_rgray (s : State) : s.takeEdge.rgray = s.rgray := by
  unfold State.takeEdge; split <;> rfl
@[simp] theorem State.takeEdge_wq1_rgray (s : State) : s.takeEdge.wq1_rgray = s.wq1_rgray := by
  unfold State.takeEdge; split <;> rfl
@[simp] theorem State.takeEdge_wq2_rgray (s : State) : s.takeEdge.wq2_rgray = s.wq2_rgray := by
  unfold State.takeEdge; split <;> rfl
@[simp] theorem State.takeEdge_rq1_wgray (s : State) : s.takeEdge.rq1_wgray = s.rq1_wgray := by
  unfold State.takeEdge; split <;> rfl
@[simp] theorem State.takeEdge_rq2_wgray (s : State) : s.takeEdge.rq2_wgray = s.rq2_wgray := by
  unfold State.takeEdge; split <;> rfl
@[simp] theorem State.takeEdge_w_fresh (s : State) : s.takeEdge.w_fresh = s.w_fresh := by
  unfold State.takeEdge; split <;> rfl
@[simp] theorem State.takeEdge_r_fresh (s : State) : s.takeEdge.r_fresh = s.r_fresh := by
  unfold State.takeEdge; split <;> rfl
@[simp] theorem State.takeEdge_Wt (s : State) : s.takeEdge.Wt = s.Wt := by
  unfold State.takeEdge; split <;> rfl
@[simp] theorem State.takeEdge_Rt (s : State) : s.takeEdge.Rt = s.Rt := by
  unfold State.takeEdge; split <;> rfl
@[simp] theorem State.takeEdge_rst (s : State) : s.takeEdge.rst = s.rst := by
  unfold State.takeEdge; split <;> rfl
@[simp] theorem State.takeEdge_evt (s : State) : s.takeEdge.evt = s.evt := by
  unfold State.takeEdge; split <;> rfl
@[simp] theorem State.takeEdge_rd (s : State) : s.takeEdge.rd = s.rd := by
  unfold State.takeEdge; split <;> rfl
@[simp] theorem State.takeEdge_draw (s : State) : s.takeEdge.draw = s.draw := by
  unfold State.takeEdge; split <;> rfl

theorem State.takeEdge_cons (s : State) (e : EdgeIn) (es : List EdgeIn) (h : s.pending = e :: es) :
    s.nextEdge = e ∧ s.takeEdge = s.setPending es := by
  simp [State.nextEdge, State.takeEdge, h]

theorem State.takeEdge_nil (s : State) (h : s.pending = []) :
    s.nextEdge = Config.freeEdge s.edgeIx ∧ s.takeEdge = s.setEdgeIx (s.edgeIx + 1) := by
  simp [State.nextEdge, State.takeEdge, h]

/-! ### The state after reset -/

@[simp] theorem State.resetWith_cfg (c : Config) : (State.resetWith c).cfg = c := rfl

theorem State.resetWith_toReset (c : Config) : (State.resetWith c).toReset = State.resetWith c := rfl

end Sys2Proof.Machine
end

