-- ==== Sys2Proof/Laws/Ops.lean ====
section
/-! SUPPORT. What each shared operation and each event can do, said once: provers cite these instead of unfolding. -/

namespace Sys2Proof.Machine

/-! ### Shared operations -/

/-- The captured value is the current one, or the previous one where the fresh bit and the draw allow it. -/
theorem capR_cases (s : State) :
    capR s = s.rgray ∨ s.r_fresh = true ∧ s.draw = true ∧ capR s = gray (subMod s.cfg.PW s.rbin 1) := by
  unfold capR
  cases s.r_fresh <;> cases s.draw <;> simp

theorem capW_cases (s : State) :
    capW s = s.wgray ∨ s.w_fresh = true ∧ s.draw = true ∧ capW s = gray (subMod s.cfg.PW s.wbin 1) := by
  unfold capW
  cases s.w_fresh <;> cases s.draw <;> simp

@[simp] theorem countDown_eq (n : Nat) : countDown n = n - 1 := by
  unfold countDown
  split <;> omega

theorem andThen_next {o : Host.Outcome State Fault Refusal} {f : State → Host.Outcome State Fault Refusal} {t : State} :
    andThen o f = .next t ↔ ∃ s, o = .next s ∧ f s = .next t := by
  cases o <;> simp [andThen]

@[simp] theorem andThen_of_next (s : State) (f : State → Host.Outcome State Fault Refusal) :
    andThen (.next s) f = f s := rfl

theorem gateOpen_iff (s : State) : gateOpen s = true ↔ s.db_cnt = 0 := by simp [gateOpen]

theorem changed_iff (s : State) (a b : Bool) : changed s a b = true ↔ inputState a b ≠ s.q := by simp [changed]

theorem wfull_iff (s : State) :
    wfull s = true ↔ subMod s.cfg.PW s.wbin (ungray s.cfg.PW s.wq2_rgray) = s.cfg.fifo_depth := by simp [wfull]

theorem rempty_iff (s : State) : rempty s = true ↔ s.rgray = s.rq2_wgray := by simp [rempty]

/-! ### The meanings -/

theorem exec_reset (s : State) : exec .reset s = .next s.toReset := rfl

theorem exec_qnop (s : State) : exec .qnop s = .next (s.setQdec s.q (s.db_cnt - 1) none) := by
  rw [← countDown_eq]; rfl

theorem exec_wnop (s : State) : exec .wnop s = .next s.shiftP := rfl

theorem exec_rnop (s : State) : exec .rnop s = .next (s.setRd .noCall).shiftC := rfl

/-- An accepted transition. -/
theorem exec_qstep_accepted (s : State) (a b : Bool) (hc : inputState a b ≠ s.q) (hg : s.db_cnt = 0) :
    exec (.qstep a b) s =
      .next (s.setQdec (inputState a b) (s.cfg.W - 1) (emission s.cfg s.q (inputState a b))) := by
  simp [exec, execQstep, qstepResult, changed, gateOpen, hc, hg]

/-- An unchanged or an ignored evaluation. -/
theorem exec_qstep_kept (s : State) (a b : Bool) (h : inputState a b = s.q ∨ s.db_cnt ≠ 0) :
    exec (.qstep a b) s = .next (s.setQdec s.q (s.db_cnt - 1) none) := by
  rcases h with h | h <;> simp [exec, execQstep, changed, gateOpen, h]

theorem exec_push_accepted (s : State) (d : Byte) (h : wfull s = false) :
    exec (.push d) s = .next (s.setWrite (s.mem.write (writeAddr s) d) (incMod s.cfg.PW s.wbin)).shiftP := by
  simp [exec, execPush, h]

theorem exec_push_dropped (s : State) (d : Byte) (h : wfull s = true) : exec (.push d) s = .next s.shiftP := by
  simp [exec, execPush, h]

theorem exec_pop_empty (s : State) (h : rempty s = true) : exec .pop s = .next (s.setRd .empty).shiftC := by
  simp [exec, execPop, h]

theorem exec_pop_byte (s : State) (b : Byte) (h : rempty s = false) (hb : s.mem.read (readAddr s) = some b) :
    exec .pop s = .next ((s.setRd (.byte b)).setRead (incMod s.cfg.PW s.rbin)).shiftC := by
  simp [exec, execPop, h, hb]

/-- POP answers a next state in two ways only. -/
theorem exec_pop_next {s t : State} (h : exec .pop s = .next t) :
    (rempty s = true ∧ t = (s.setRd .empty).shiftC) ∨
    ∃ b, rempty s = false ∧ s.mem.read (readAddr s) = some b ∧
      t = ((s.setRd (.byte b)).setRead (incMod s.cfg.PW s.rbin)).shiftC := by
  cases he : rempty s with
  | true =>
    rw [exec_pop_empty s he] at h
    exact .inl ⟨rfl, by simpa using h.symm⟩
  | false =>
    cases hb : s.mem.read (readAddr s) with
    | some b =>
      rw [exec_pop_byte s b he hb] at h
      exact .inr ⟨b, rfl, rfl, by simpa using h.symm⟩
    | none => simp [exec, execPop, he, hb] at h

/-- The QDEC slot of any format C word: it answers a next state, and changes only the decoder's own registers. -/
theorem exec_qdecOp (w : BitVec 4) (s : State) :
    ∃ q n e, exec (qdecOp w) s = .next (s.setQdec q n e) ∧
      ((q = s.q ∧ n = s.db_cnt - 1 ∧ e = none) ∨
       (∃ a b, qdecOp w = .qstep a b ∧ q = inputState a b ∧ q ≠ s.q ∧ s.db_cnt = 0 ∧ n = s.cfg.W - 1 ∧
          e = emission s.cfg s.q q)) := by
  unfold qdecOp
  split
  · by_cases hk : inputState (w.getLsbD 2) (w.getLsbD 1) = s.q ∨ s.db_cnt ≠ 0
    · exact ⟨_, _, _, exec_qstep_kept s _ _ hk, .inl ⟨rfl, rfl, rfl⟩⟩
    · obtain ⟨hc, hg⟩ := not_or.1 hk
      have hg : s.db_cnt = 0 := by omega
      exact ⟨_, _, _, exec_qstep_accepted s _ _ hc hg, .inr ⟨_, _, rfl, rfl, hc, hg, rfl, rfl⟩⟩
  · exact ⟨_, _, _, exec_qnop s, .inl ⟨rfl, rfl, rfl⟩⟩

/-! ### One event -/

theorem applyWord_c (w : BitVec 4) (s : State) (h : s.rst = false) :
    applyWord (.c w) s = andThen (exec (qdecOp w) s) (exec (readOp w)) := by
  simp [applyWord, decode, execLine, h]

theorem applyWord_p (w : BitVec 9) (s : State) (h : s.rst = false) : applyWord (.p w) s = exec (writeOp w) s := by
  simp [applyWord, decode, execLine, h]

theorem applyWord_c_held (w : BitVec 4) (s : State) (h : s.rst = true) : applyWord (.c w) s = .next s := by
  simp [applyWord, decode, h]

theorem applyWord_p_held (w : BitVec 9) (s : State) (h : s.rst = true) : applyWord (.p w) s = .next s := by
  simp [applyWord, decode, h]

theorem applyWord_reset (s : State) : applyWord (.r 1#1) s = .next (s.setRst true).toReset := rfl

theorem applyWord_release (s : State) : applyWord (.r 0#1) s = .next (s.setRst false) := rfl

theorem wordR_cases (w : BitVec 1) : w = 1#1 ∨ w = 0#1 := by
  revert w; decide

/-- What the read slot leaves: nothing consumed, or one byte of a written cell. -/
theorem exec_readOp_next {w : BitVec 4} {s t : State} (h : exec (readOp w) s = .next t) :
    (∃ r, r.bytes = [] ∧ t = (s.setRd r).shiftC ∧ (readOp w = .pop → rempty s = true)) ∨
    ∃ b, readOp w = .pop ∧ rempty s = false ∧ s.mem.read (readAddr s) = some b ∧
      t = ((s.setRd (.byte b)).setRead (incMod s.cfg.PW s.rbin)).shiftC := by
  by_cases hp : readOp w = .pop
  · rw [hp] at h
    rcases exec_pop_next h with ⟨he, rfl⟩ | ⟨b, he, hb, rfl⟩
    · exact .inl ⟨.empty, rfl, rfl, fun _ => he⟩
    · exact .inr ⟨b, hp, he, hb, rfl⟩
  · have hr : readOp w = .rnop := by
      unfold readOp at hp ⊢
      split at hp
      · exact absurd rfl hp
      · rename_i h0; exact if_neg h0
    rw [hr, exec_rnop] at h
    exact .inl ⟨.noCall, rfl, by simpa using h.symm, fun h' => absurd h' hp⟩

/-- What the write slot leaves: a stored byte, or the shift alone. -/
theorem exec_writeOp (w : BitVec 9) (s : State) :
    exec (writeOp w) s = .next s.shiftP ∧ ((∀ d, writeOp w ≠ .push d) ∨ wfull s = true) ∨
    ∃ d, writeOp w = .push d ∧ wfull s = false ∧
      exec (writeOp w) s = .next (s.setWrite (s.mem.write (writeAddr s) d) (incMod s.cfg.PW s.wbin)).shiftP := by
  by_cases hb : w.getLsbD 8 = true
  · have hw : writeOp w = .push (w.extractLsb' 0 8) := if_pos hb
    rw [hw]
    cases hf : wfull s with
    | true => exact .inl ⟨exec_push_dropped s _ hf, .inr rfl⟩
    | false => exact .inr ⟨_, rfl, rfl, exec_push_accepted s _ hf⟩
  · have hw : writeOp w = .wnop := if_neg hb
    rw [hw]
    exact .inl ⟨exec_wnop s, .inl (by simp)⟩

/-- Everything one event can do. -/
theorem applyEdge_next {e : EdgeIn} {s t : State} (h : applyEdge e s = .next t) :
    (∃ w, e.word = .c w ∧ s.rst = true ∧ t = s.setDraw e.stale) ∨
    (∃ w, e.word = .p w ∧ s.rst = true ∧ t = s.setDraw e.stale) ∨
    (∃ w u, e.word = .c w ∧ s.rst = false ∧ exec (qdecOp w) (s.setDraw e.stale) = .next u ∧
      exec (readOp w) u = .next t) ∨
    (∃ w, e.word = .p w ∧ s.rst = false ∧ exec (writeOp w) (s.setDraw e.stale) = .next t) ∨
    (e.word = .r 1#1 ∧ t = ((s.setDraw e.stale).setRst true).toReset) ∨
    (e.word = .r 0#1 ∧ t = (s.setDraw e.stale).setRst false) := by
  unfold applyEdge at h
  cases hw : e.word with
  | c w =>
    rw [hw] at h
    cases hr : s.rst with
    | true =>
      rw [applyWord_c_held w _ (by simpa using hr)] at h
      exact .inl ⟨w, rfl, rfl, by simpa using h.symm⟩
    | false =>
      rw [applyWord_c w _ (by simpa using hr), andThen_next] at h
      obtain ⟨u, hu, ht⟩ := h
      exact .inr (.inr (.inl ⟨w, u, rfl, rfl, hu, ht⟩))
  | p w =>
    rw [hw] at h
    cases hr : s.rst with
    | true =>
      rw [applyWord_p_held w _ (by simpa using hr)] at h
      exact .inr (.inl ⟨w, rfl, rfl, by simpa using h.symm⟩)
    | false =>
      rw [applyWord_p w _ (by simpa using hr)] at h
      exact .inr (.inr (.inr (.inl ⟨w, rfl, rfl, h⟩)))
  | r w =>
    rw [hw] at h
    rcases wordR_cases w with rfl | rfl
    · rw [applyWord_reset] at h
      exact .inr (.inr (.inr (.inr (.inl ⟨rfl, by simpa using h.symm⟩))))
    · rw [applyWord_release] at h
      exact .inr (.inr (.inr (.inr (.inr ⟨rfl, by simpa using h.symm⟩))))

/-- A step of a machine whose parameters keep their constraints is its next event. -/
theorem step_eq (s : State) (h : s.cfg.valid = true) : step s = applyEdge s.nextEdge s.takeEdge := by
  simp [step, stepBlock, h]

/-- A step that answers a next state ran its event, under valid parameters. -/
theorem step_next {s t : State} (h : step s = .next t) :
    s.cfg.valid = true ∧ applyEdge s.nextEdge s.takeEdge = .next t := by
  unfold step stepBlock at h
  split at h
  · exact ⟨‹_›, h⟩
  · simp at h

/-- A clock edge while the reset pin is 1 changes nothing but the draw. -/
theorem edge_held {e : EdgeIn} {s t : State} (hr : s.rst = true) (hn : edgeIsR e = false)
    (h : applyEdge e s = .next t) : t = s.setDraw e.stale := by
  unfold applyEdge at h
  cases hw : e.word with
  | r w => simp [edgeIsR, hw] at hn
  | c w => rw [hw, applyWord_c_held _ _ (by simpa using hr)] at h; simpa using h.symm
  | p w => rw [hw, applyWord_p_held _ _ (by simpa using hr)] at h; simpa using h.symm

/-- An `EdgeC`: the QDEC slot, then the read slot. -/
theorem edgeC_next {e : EdgeIn} {s t : State} {w : BitVec 4} (hw : e.word = .c w) (hr : s.rst = false)
    (h : applyEdge e s = .next t) :
    ∃ u, exec (qdecOp w) (s.setDraw e.stale) = .next u ∧ exec (readOp w) u = .next t := by
  unfold applyEdge at h
  rwa [hw, applyWord_c _ _ (by simpa using hr), andThen_next] at h

/-- An `EdgeP`: the write slot. -/
theorem edgeP_next {e : EdgeIn} {s t : State} {w : BitVec 9} (hw : e.word = .p w) (hr : s.rst = false)
    (h : applyEdge e s = .next t) : exec (writeOp w) (s.setDraw e.stale) = .next t := by
  unfold applyEdge at h
  rwa [hw, applyWord_p _ _ (by simpa using hr)] at h

/-! ### Parameters -/

/-- A valid configuration is consistent. -/
theorem consistent_of_valid {c : Config} (h : c.valid = true) : c.consistent = true :=
  (Bool.and_eq_true_iff.1 h).2

/-- What a consistent configuration gives the arithmetic. -/
theorem consistent_parts {c : Config} (h : c.consistent = true) :
    c.debounce_ns * c.f_clk_c_hz % 1000000000 = 0 ∧ 1 ≤ c.W ∧ 2 ≤ c.fifo_depth ∧ 2 ^ c.AW = c.fifo_depth := by
  simp only [Config.consistent, Bool.and_eq_true, decide_eq_true_eq] at h
  exact ⟨h.1.1.1.1.1, h.1.1.1.1.2, h.1.1.1.2, h.1.1.2⟩

/-- The cell a pointer of a given count addresses. -/
theorem cell_of_count {c : Config} (h : c.consistent = true) (n : Nat) : n % 2 ^ c.PW % 2 ^ c.AW = n % c.fifo_depth := by
  obtain ⟨_, _, _, h4⟩ := consistent_parts h
  rw [Nat.mod_mod_of_dvd, h4]
  unfold Config.PW
  exact Dvd.intro _ (Nat.pow_succ ..).symm

end Sys2Proof.Machine
end

