-- ==== Sys2Proof/Laws/PerInstr.lean ====
section
/-! SUPPORT. The family Encoding: every operation's encoded word against its own row of the operation table
(30_encoding.md R54, spec/opcode_table.json). -/

namespace Sys2Proof.Laws.Encoding

/-- A row of the operation table: the width of its format, its mask and its match. -/
structure Row where
  width : Nat
  mask : Nat
  matchBits : Nat

/-- The row of an operation (R54). -/
def rowOf : Instr → Row
  | .reset => { width := 1, mask := 0x1, matchBits := 0x1 }
  | .qstep _ _ => { width := 4, mask := 0x8, matchBits := 0x8 }
  | .qnop => { width := 4, mask := 0x8, matchBits := 0x0 }
  | .pop => { width := 4, mask := 0x1, matchBits := 0x1 }
  | .rnop => { width := 4, mask := 0x1, matchBits := 0x0 }
  | .push _ => { width := 9, mask := 0x100, matchBits := 0x100 }
  | .wnop => { width := 9, mask := 0x100, matchBits := 0x0 }

/-- The width of a port word. -/
def wordWidth : PortWord → Nat
  | .c _ => 4
  | .p _ => 9
  | .r _ => 1

/-- The bits of a port word as a number. -/
def wordBits : PortWord → Nat
  | .c w => w.toNat
  | .p w => w.toNat
  | .r w => w.toNat

/-- The word of an operation has the width of its row and matches it under the row's mask. -/
def Statement (i : Instr) : Prop :=
  wordWidth (encode i) = (rowOf i).width ∧ wordBits (encode i) &&& (rowOf i).mask = (rowOf i).matchBits

theorem reset : Statement .reset := ⟨rfl, rfl⟩

theorem qstep (a b : Bool) : Statement (.qstep a b) := by
  cases a <;> cases b <;> exact ⟨rfl, rfl⟩

theorem qnop : Statement .qnop := ⟨rfl, rfl⟩

theorem pop : Statement .pop := ⟨rfl, rfl⟩

theorem rnop : Statement .rnop := ⟨rfl, rfl⟩

theorem push (d : Byte) : Statement (.push d) := by
  refine ⟨rfl, ?_⟩
  show (wordP true d).toNat &&& 256 = 256
  revert d
  unfold wordP
  decide

theorem wnop : Statement .wnop := ⟨rfl, rfl⟩

end Sys2Proof.Laws.Encoding
end

