-- ==== Sys2Proof/Tests/Slice0.lean ====
section
/-! SUPPORT. Tests: the checks of well-formedness refuse what they should; words written out from the spec's encodings
decode to what they stand for; one step of each operation against the vectors of spec/95_test_vectors.md; and, for each
statement with hypotheses, a concrete state and operands that meet them (witness_<statement>). -/

open Sys2Proof Sys2Proof.Machine

namespace Sys2Proof.Tests

/-! ### Helpers -/

/-- W = 4, FIFO_DEPTH = 4: the small parameters of 95_test_vectors.md. -/
def small : Config := { debounce_ns := 4, f_clk_c_hz := 1000000000, fifo_depth := 4 }

/-- W = 1, FIFO_DEPTH = 2: the least window (vector Q14) and the least depth. -/
def least : Config := { debounce_ns := 1, f_clk_c_hz := 1000000000, fifo_depth := 2 }

/-- The least valid parameters: the fixed 3 ms at 1 kHz, W = 3, FIFO_DEPTH = 2. -/
def leastValid : Config := { f_clk_c_hz := 1000, fifo_depth := 2 }

/-- The state after reset, least valid parameters. -/
def v0 : State := State.resetWith leastValid

/-- The state after reset, small parameters. -/
def s0 : State := State.resetWith small

def edgeC (w : BitVec 4) : EdgeIn := { word := .c w, stale := false }
def edgeP (w : BitVec 9) : EdgeIn := { word := .p w, stale := false }
def staleC (w : BitVec 4) : EdgeIn := { word := .c w, stale := true }
def reset1 : EdgeIn := { word := .r 1#1, stale := false }
def reset0 : EdgeIn := { word := .r 0#1, stale := false }

/-- Whether an outcome is a next state. -/
def runs : Host.Outcome State Fault Refusal → Bool
  | .next _ => true
  | .fault _ => false
  | .refused _ => false

/-- The next state of an outcome that has one. -/
def after : Host.Outcome State Fault Refusal → State
  | .next t => t
  | .fault _ => State.reset
  | .refused _ => State.reset

theorem next_after (o : Host.Outcome State Fault Refusal) (h : runs o = true) : o = .next (after o) := by
  cases o <;> first | rfl | cases h

/-- The record of a run that the machine completes. -/
def ran (es : List EdgeIn) (s : State) : Run :=
  match Run.edges es (Run.start s) with
  | some r => r
  | none => Run.start s

theorem edges_ran (es : List EdgeIn) (s : State) (h : (Run.edges es (Run.start s)).isSome = true) :
    Run.edges es (Run.start s) = some (ran es s) := by
  unfold ran
  cases hx : Run.edges es (Run.start s) with
  | none => rw [hx] at h; cases h
  | some r => rfl

/-- The invariant as one decidable proposition. -/
abbrev InvChecks (s : State) : Prop :=
  (s.cfg.consistent = true ∧ s.db_cnt < s.cfg.W ∧ s.mem.wf = true ∧ (∀ c ∈ s.mem, c.1 < s.cfg.fifo_depth) ∧
    s.wbin = s.Wt % 2 ^ s.cfg.PW ∧ s.wgray = gray s.wbin ∧ s.rbin = s.Rt % 2 ^ s.cfg.PW ∧ s.rgray = gray s.rbin) ∧
  (s.wq1_rgray < 2 ^ s.cfg.PW ∧ s.wq2_rgray < 2 ^ s.cfg.PW ∧ s.rq1_wgray < 2 ^ s.cfg.PW ∧ s.rq2_wgray < 2 ^ s.cfg.PW ∧
    wLag2 s ≤ s.Wt ∧ wLag1 s ≤ s.Wt ∧ rLag2 s ≤ s.Rt ∧ rLag1 s ≤ s.Rt) ∧
  (viewRs s ≤ viewRs1 s ∧ viewRs1 s ≤ s.Rt ∧ s.Rt ≤ viewWs s ∧ viewWs s ≤ viewWs1 s ∧ viewWs1 s ≤ s.Wt ∧
    s.Wt ≤ viewRs s + s.cfg.fifo_depth) ∧
  ((s.w_fresh = true → viewWs1 s < s.Wt) ∧ (s.r_fresh = true → viewRs1 s < s.Rt) ∧
    (∀ k < s.Wt, s.Rt ≤ k → (s.mem.read (k % s.cfg.fifo_depth)).isSome = true) ∧ (s.rst = true → s = s.toReset))

theorem inv_of_checks {s : State} (h : InvChecks s) : Inv s := by
  obtain ⟨⟨h1, h2, h3, h4, h5, h6, h7, h8⟩, ⟨i1, i2, i3, i4, i5, i6, i7, i8⟩, ⟨j1, j2, j3, j4, j5, j6⟩, k1, k2, k3, k4⟩ := h
  exact ⟨h1, h2, h3, h4, h5, h6, h7, h8, i1, i2, i3, i4, i5, i6, i7, i8, j1, j2, j3, j4, j5, j6, k1, k2, k3, k4⟩

/-- The gate open, the decoder at `q`. -/
def atQ (q : BitVec 2) : State := { s0 with q := q }

/-- One byte stored and visible to the consumer (vector B1 after edge 2). -/
def oneByte : State := (ran [edgeP 0x1A5#9, edgeC 0x1#4, edgeC 0x1#4] s0).s

/-- Full, all of it visible to the consumer (vector B3 after edge 7). -/
def fullQueue : State :=
  (ran [edgeP 0x110#9, edgeP 0x111#9, edgeP 0x112#9, edgeP 0x113#9, edgeC 0x0#4, edgeC 0x0#4] s0).s

/-- Full under the least valid parameters. -/
def fullValid : State := (ran [edgeP 0x110#9, edgeP 0x111#9, edgeC 0x0#4, edgeC 0x0#4] v0).s

/-- The reset pin held at 1. -/
def heldReset : State := after (applyEdge reset1 s0)

/-! ### Well-formedness refuses ill-formed lines and parameters -/

theorem test_wf_read_op_in_qdec_slot : (Line.c .pop .rnop).wf = false := by decide
theorem test_wf_qdec_op_in_read_slot : (Line.c .qnop .qnop).wf = false := by decide
theorem test_wf_push_at_edgeC : (Line.c (.push 0#8) .rnop).wf = false := by decide
theorem test_wf_pop_at_edgeP : (Line.p .pop).wf = false := by decide
theorem test_wf_push_as_reset : (Line.r (.push 0#8)).wf = false := by decide
theorem test_wf_good_lines : (Line.c (.qstep true false) .pop).wf = true ∧ (Line.p .wnop).wf = true ∧
    (Line.r .reset).wf = true := by decide

theorem test_config_default : Config.default.valid = true ∧ leastValid.valid = true ∧ small.consistent = true ∧
    least.consistent = true := by decide
/-- R6: DEBOUNCE_NS is fixed at 3 000 000. -/
theorem test_config_window_not_fixed : small.valid = false ∧ (Config.valid { debounce_ns := 6000000 }) = false := by decide
theorem test_config_window_not_whole : (Config.valid { f_clk_c_hz := 1000001 }) = false := by decide
theorem test_config_window_zero : (Config.valid { f_clk_c_hz := 0 }) = false := by decide
theorem test_step_refuses_short_window : step s0 = .refused .badConfiguration := by rfl
theorem test_config_depth_not_power : (Config.valid { fifo_depth := 6 }) = false := by decide
theorem test_config_depth_one : (Config.valid { fifo_depth := 1 }) = false := by decide
theorem test_config_domains_equal : (Config.valid { domain_canbus := 0x01#8 }) = false := by decide
theorem test_config_ids_equal : (Config.valid { id_knob_increment := 0x0003#16 }) = false := by decide
theorem test_config_refused : step (State.resetWith { fifo_depth := 6 }) = .refused .badConfiguration := by rfl

/-! ### Decoding: words written out from R51 to R53 (95_test_vectors.md part 2) -/

theorem test_decode_qdec : decode (.c 0b1010#4) = .ok (.c (.qstep false true) .rnop) := by decide
theorem test_decode_qnop_levels_not_read : decode (.c 0b0110#4) = .ok (.c .qnop .rnop) := by decide
theorem test_decode_read : decode (.c 0b0101#4) = .ok (.c .qnop .pop) := by decide
theorem test_decode_both_slots : decode (.c 0b1101#4) = .ok (.c (.qstep true false) .pop) := by decide
theorem test_decode_push : decode (.p 0b110100101#9) = .ok (.p (.push 0xA5#8)) := by decide
theorem test_decode_wnop_data_not_read : decode (.p 0b010100101#9) = .ok (.p .wnop) := by decide
theorem test_decode_reset : decode (.r 0b1#1) = .ok (.r .reset) := by decide
theorem test_decode_no_reset : decode (.r 0b0#1) = .error .resetNotAsserted := by decide
theorem test_table_words : decodeTableWord 1 1 = some .reset ∧ decodeTableWord 4 0xC = some (.qstep true false) ∧
    decodeTableWord 4 0x1 = some .pop ∧ decodeTableWord 4 0x0 = some .qnop ∧
    decodeTableWord 9 0x1A5 = some (.push 0xA5#8) ∧ decodeTableWord 9 0x0A5 = some .wnop := by decide
theorem test_table_word_too_wide : decodeTableWord 4 0x10 = none ∧ decodeTableWord 1 0 = none := by decide

/-! ### One step of each operation -/

/-- Vector Q17, row 1: `q` = 10, gate open, QSTEP 0,0 at W = 3000. -/
theorem test_qstep_emits : (after (exec (.qstep false false) { State.reset with q := 0b10#2 })).evt =
      some { domain := 0x01#8, id := 0x0002#16, data := 0#64 } ∧
    (after (exec (.qstep false false) { State.reset with q := 0b10#2 })).db_cnt = 2999 := by decide

/-- Vector Q17, row 5: an ignored evaluation. -/
theorem test_qstep_ignored : (after (exec (.qstep false false) { State.reset with q := 0b10#2, db_cnt := 2999 })).q = 0b10#2 ∧
    (after (exec (.qstep false false) { State.reset with q := 0b10#2, db_cnt := 2999 })).db_cnt = 2998 := by decide

/-- Vector Q17, rows 10 and 11. -/
theorem test_qnop_counts_down : (after (exec .qnop { State.reset with q := 0b01#2, db_cnt := 5 })).db_cnt = 4 ∧
    (after (exec .qnop { State.reset with q := 0b01#2 })).db_cnt = 0 := by decide

/-- Vector B1, edge 0. -/
theorem test_push_stores : (after (exec (.push 0xA5#8) s0)).mem = [(0, 0xA5#8)] ∧
    (after (exec (.push 0xA5#8) s0)).wgray = 0b001 ∧ (after (exec (.push 0xA5#8) s0)).w_fresh = true := by decide

/-- Vector B3, edge 4: a PUSH to a full queue is dropped. -/
theorem test_push_dropped : (after (exec (.push 0x14#8) fullQueue)).wbin = 0b100 ∧
    (after (exec (.push 0x14#8) fullQueue)).mem = [(0, 0x10#8), (1, 0x11#8), (2, 0x12#8), (3, 0x13#8)] := by decide

/-- Vector B5, edge 16: the capture and the shift. -/
theorem test_wnop_shifts : (after (exec .wnop { s0 with wq1_rgray := 0b11, rgray := 0b00, r_fresh := true })).wq1_rgray = 0b00 ∧
    (after (exec .wnop { s0 with wq1_rgray := 0b11, rgray := 0b00, r_fresh := true })).wq2_rgray = 0b11 := by decide

/-- Vector B1, edge 3. -/
theorem test_pop_byte : (after (exec .pop oneByte)).rd = .byte 0xA5#8 ∧ (after (exec .pop oneByte)).rgray = 0b001 ∧
    (after (exec .pop oneByte)).r_fresh = true := by decide

/-- Vector B8: POP on an empty queue at reset. -/
theorem test_pop_empty : (after (exec .pop s0)).rd = .empty ∧ (after (exec .pop s0)).rbin = 0 := by decide

/-- Vector B7, edge 2: two PUSHes, then a stale draw takes the value before the most recent change. -/
theorem test_rnop_stale_draw :
    (ran [edgeP 0x150#9, edgeP 0x151#9, staleC 0x0#4] s0).s.rq1_wgray = 0b001 := by decide

/-- R130: `mem` is untouched, the pointers are not. -/
theorem test_reset_keeps_mem : (after (exec .reset oneByte)).mem = [(0, 0xA5#8)] ∧ (after (exec .reset oneByte)).wbin = 0 := by
  decide

/-- R61: Gray codes at PW = 11. -/
theorem test_gray : gray 1023 = 0b01000000000 ∧ gray 1024 = 0b11000000000 ∧ gray 2047 = 0b10000000000 ∧
    ungray 3 0b110 = 4 ∧ ungray 3 0b100 = 7 := by decide

/-- The word of a row runs as the first instruction after reset. -/
theorem test_first_instruction : (after (step (State.reset.withFetchWord 4 0xC))).q = 0b10#2 ∧
    (after (step (State.reset.withFetchWord 9 0x1A5))).wbin = 1 ∧
    (after (step (State.reset.withFetchWord 1 1))).rst = true := by decide

/-! ### Witnesses: decoding and the step -/

theorem witness_OperationMapByMaskAndMatch :
    (0b1#1 &&& 0b1#1 = 0b1#1) ∧ (0b1000#4 &&& 0b1000#4 = 0b1000#4) ∧ (0b0111#4 &&& 0b1000#4 = 0b0000#4) ∧
    (0b0001#4 &&& 0b0001#4 = 0b0001#4) ∧ (0b1110#4 &&& 0b0001#4 = 0b0000#4) ∧
    (0x100#9 &&& 0b100000000#9 = 0b100000000#9) ∧ (0x0FF#9 &&& 0b100000000#9 = 0b000000000#9) := by decide

theorem witness_DecodeAndEncodeAgree :
    (Line.c (.qstep true true) .pop).wf = true ∧ (Line.p (.push 0xFF#8)).wf = true ∧ (Line.r .reset).wf = true ∧
    (Line.p .reset).wf = false ∧
    decode (.c 0b0111#4) = .ok (.c .qnop .pop) ∧ decode (.p 0x0FF#9) = .ok (.p .wnop) ∧
    decode (.r 1#1) = .ok (.r .reset) := by decide

theorem witness_StepRunsTheDecodedOperations :
    (v0.setPending [edgeC 0x9#4]).pending = edgeC 0x9#4 :: [] ∧ v0.pending = [] ∧ v0.cfg.valid = true ∧
    (v0.setPending [edgeC 0x9#4]).nextEdge = edgeC 0x9#4 ∧
    decode (edgeC 0x9#4).word = .ok (.c (.qstep false false) .pop) ∧ v0.rst = false ∧
    decode (edgeP 0x1FF#9).word = .ok (.p (.push 0xFF#8)) ∧ decode reset1.word = .ok (.r .reset) ∧
    decode reset0.word = .error .resetNotAsserted ∧ (v0.setRst true).rst = true ∧ (v0.setRst true).cfg.valid = true ∧ edgeIsR (edgeP 0x1FF#9) = false := by decide

theorem witness_ListedEdgesRunInOrder :
    v0.cfg.valid = true ∧ Run.edges [edgeP 0x1A5#9, reset1, edgeC 0xF#4, reset0] (Run.start v0) =
      some (ran [edgeP 0x1A5#9, reset1, edgeC 0xF#4, reset0] v0) :=
  ⟨by decide, edges_ran _ _ (by decide)⟩

theorem witness_ParametersNeverChange :
    step (v0.setPending [reset1]) = .next (after (step (v0.setPending [reset1]))) := next_after _ (by decide)

theorem witness_DerivedWidths :
    Config.default.valid = true ∧ leastValid.valid = true ∧ least.consistent = true ∧ least.W = 1 ∧ least.W ≤ 2 ^ 1 := by
  decide

theorem witness_FlagsAfterReset : least.consistent = true ∧ Config.default.consistent = true := by decide

theorem witness_ResetIsOneAtomicEvent :
    heldReset.rst = true ∧ edgeIsR (edgeC 0xF#4) = false ∧ edgeIsR (edgeP 0x1FF#9) = false ∧ Inv heldReset :=
  ⟨by decide, by decide, by decide, inv_of_checks (by decide)⟩

theorem witness_ResetFrame : exec .reset fullQueue = .next (after (exec .reset fullQueue)) := next_after _ (by decide)

/-! ### Witnesses: unit QDEC -/

theorem witness_QstepFollowsItsRule :
    BitVec.getLsbD 0b1100#4 3 = true ∧ BitVec.getLsbD 0b1100#4 2 = true ∧ BitVec.getLsbD 0b1100#4 1 = false ∧
    BitVec.ofBool true ++ BitVec.ofBool false ≠ s0.q ∧ s0.db_cnt = 0 ∧
    BitVec.ofBool true ++ BitVec.ofBool false = (atQ 0b10#2).q ∧ { s0 with db_cnt := 1 }.db_cnt ≠ 0 := by decide

theorem witness_QnopFollowsItsRule : BitVec.getLsbD 0b0111#4 3 = false := by decide

theorem witness_EmissionRule :
    BitVec.ofBool true ++ BitVec.ofBool true ≠ s0.q ∧ s0.db_cnt = 0 ∧
    (after (exec (.qstep true true) s0)).q ≠ 0b00#2 ∧
    (after (exec (.qstep false false) (atQ 0b10#2))).q = 0b00#2 ∧ (atQ 0b10#2).q = 0b10#2 ∧
    (after (exec (.qstep false false) (atQ 0b01#2))).q = 0b00#2 ∧ (atQ 0b01#2).q = 0b01#2 ∧
    (after (exec (.qstep false false) (atQ 0b11#2))).q = 0b00#2 ∧ (atQ 0b11#2).q = 0b11#2 := by decide

theorem witness_TransitionTable : s0.db_cnt = 0 ∧ { s0 with db_cnt := 1 }.db_cnt ≠ 0 := by decide

theorem witness_QdecFrame :
    exec (.qstep true true) fullQueue = .next (after (exec (.qstep true true) fullQueue)) ∧
    exec .qnop fullQueue = .next (after (exec .qnop fullQueue)) :=
  ⟨next_after _ (by decide), next_after _ (by decide)⟩

theorem witness_TimerAtEveryEdgeC :
    s0.rst = false ∧ applyEdge { word := .c 0xF#4, stale := true } s0 =
      .next (after (applyEdge { word := .c 0xF#4, stale := true } s0)) := ⟨by decide, next_after _ (by decide)⟩

theorem witness_OnlyAcceptedTransitionsWriteQ :
    step (v0.setPending [edgeC 0xE#4]) = .next (after (step (v0.setPending [edgeC 0xE#4]))) ∧
    (after (step (v0.setPending [edgeC 0xE#4]))).q ≠ v0.q ∧
    step { v0 with q := 0b10#2, pending := [reset1] } = .next (after (step { v0 with q := 0b10#2, pending := [reset1] })) ∧
    (after (step { v0 with q := 0b10#2, pending := [reset1] })).q ≠ 0b10#2 :=
  ⟨next_after _ (by decide), by decide, next_after _ (by decide), by decide⟩

theorem witness_OnlyAReturnToRestEmits :
    edgeIsC (edgeC 0x9#4) = true ∧ (atQ 0b01#2).rst = false ∧
    applyEdge (edgeC 0x9#4) (atQ 0b01#2) = .next (after (applyEdge (edgeC 0x9#4) (atQ 0b01#2))) ∧
    (after (applyEdge (edgeC 0x9#4) (atQ 0b01#2))).evt ≠ none :=
  ⟨by decide, by decide, next_after _ (by decide), by decide⟩

theorem witness_DebounceWindow :
    Inv s0 ∧ s0.rst = false ∧ evaluates false true (edgeC 0xA#4) = true ∧
    BitVec.ofBool false ++ BitVec.ofBool true ≠ s0.q ∧ s0.db_cnt = 0 ∧
    noReset [edgeC 0x8#4, edgeP 0x1A5#9, edgeC 0xE#4, edgeC 0x8#4] = true ∧
    countC [edgeC 0x8#4, edgeP 0x1A5#9, edgeC 0xE#4, edgeC 0x8#4] = s0.cfg.W - 1 ∧
    [edgeC 0xA#4, edgeC 0x1#4].all (holds false true) = true ∧
    Run.edges (edgeC 0xA#4 :: [edgeC 0x8#4, edgeP 0x1A5#9, edgeC 0xE#4, edgeC 0x8#4]) (Run.start s0) =
      some (ran (edgeC 0xA#4 :: [edgeC 0x8#4, edgeP 0x1A5#9, edgeC 0xE#4, edgeC 0x8#4]) s0) ∧
    Run.edges (edgeC 0xA#4 :: ([edgeC 0x8#4, edgeP 0x1A5#9, edgeC 0xE#4, edgeC 0x8#4] ++ [edgeC 0xA#4, edgeC 0x1#4]))
      (Run.start s0) =
      some (ran (edgeC 0xA#4 :: ([edgeC 0x8#4, edgeP 0x1A5#9, edgeC 0xE#4, edgeC 0x8#4] ++ [edgeC 0xA#4, edgeC 0x1#4])) s0) :=
  ⟨inv_of_checks (by decide), by decide, by decide, by decide, by decide, by decide, by decide, by decide,
    edges_ran _ _ (by decide), edges_ran _ _ (by decide)⟩

theorem witness_GateOpensAfterTheWindow :
    Inv s0 ∧ s0.rst = false ∧ evaluates false true (edgeC 0xA#4) = true ∧
    BitVec.ofBool false ++ BitVec.ofBool true ≠ s0.q ∧ s0.db_cnt = 0 ∧
    noReset [edgeC 0x0#4, edgeC 0x0#4, edgeC 0x8#4] = true ∧
    Run.edges (edgeC 0xA#4 :: [edgeC 0x0#4, edgeC 0x0#4, edgeC 0x8#4]) (Run.start s0) =
      some (ran (edgeC 0xA#4 :: [edgeC 0x0#4, edgeC 0x0#4, edgeC 0x8#4]) s0) ∧
    (ran (edgeC 0xA#4 :: [edgeC 0x0#4, edgeC 0x0#4, edgeC 0x8#4]) s0).turns =
      [BitVec.ofBool false ++ BitVec.ofBool true] :=
  ⟨inv_of_checks (by decide), by decide, by decide, by decide, by decide, by decide, edges_ran _ _ (by decide), by decide⟩

/-- Both directions, at the least window: `h1` to `h4` may be empty. -/
theorem witness_CleanDetentEmitsOnce :
    Inv (State.resetWith least) ∧ (State.resetWith least).rst = false ∧ (State.resetWith least).q = 0b00#2 ∧
    (State.resetWith least).db_cnt = 0 ∧ evaluates false true (edgeC 0xA#4) = true ∧
    evaluates true true (edgeC 0xE#4) = true ∧ evaluates true false (edgeC 0xC#4) = true ∧
    evaluates false false (edgeC 0x8#4) = true ∧ least.W ≤ countC [] + 1 ∧
    [edgeP 0x1A5#9, edgeC 0xA#4, edgeC 0x1#4].all (holds false true) = true ∧
    least.W ≤ countC [edgeP 0x1A5#9, edgeC 0xA#4, edgeC 0x1#4] + 1 :=
  ⟨inv_of_checks (by decide), by decide, by decide, by decide, by decide, by decide, by decide, by decide, by decide,
    by decide, by decide⟩

/-- Vector Q6 and its mirror image: a glitch inside the window. -/
theorem witness_ReturnAfterTheWindowEmitsOnce :
    Inv s0 ∧ s0.rst = false ∧ s0.q = 0b00#2 ∧ s0.db_cnt = 0 ∧ evaluates false true (edgeC 0xA#4) = true ∧
    evaluates true false (edgeC 0xC#4) = true ∧ noReset [edgeC 0x8#4, edgeC 0x8#4, edgeC 0x8#4] = true ∧
    countC [edgeC 0x8#4, edgeC 0x8#4, edgeC 0x8#4] = s0.cfg.W - 1 ∧ evaluates false false (edgeC 0x8#4) = true :=
  ⟨inv_of_checks (by decide), by decide, by decide, by decide, by decide, by decide, by decide, by decide, by decide⟩

theorem witness_FirstOperationsAfterReset :
    Config.default.consistent = true ∧ BitVec.ofBool true ++ BitVec.ofBool true ≠ 0b00#2 ∧
    [edgeC 0x9#4, edgeP 0x1A5#9, edgeC 0x6#4].all (holds false false) = true ∧
    noReset [edgeC 0x9#4, edgeP 0x0A5#9] = true ∧ presented [edgeC 0x9#4, edgeP 0x0A5#9] = [] := by decide

/-! ### Witnesses: unit BQ -/

theorem witness_PushFollowsItsRule :
    BitVec.getLsbD 0x1A5#9 8 = true ∧ BitVec.extractLsb' 0 8 0x1A5#9 = 0xA5#8 ∧
    subMod s0.cfg.PW s0.wbin (ungray s0.cfg.PW s0.wq2_rgray) ≠ s0.cfg.fifo_depth ∧
    subMod fullQueue.cfg.PW fullQueue.wbin (ungray fullQueue.cfg.PW fullQueue.wq2_rgray) = fullQueue.cfg.fifo_depth := by
  decide

theorem witness_WnopFollowsItsRule : BitVec.getLsbD 0x0A5#9 8 = false := by decide

theorem witness_PopFollowsItsRule :
    BitVec.getLsbD 0x1#4 0 = true ∧ oneByte.rgray ≠ oneByte.rq2_wgray ∧
    oneByte.mem.read (oneByte.rbin % 2 ^ oneByte.cfg.AW) = some 0xA5#8 ∧ s0.rgray = s0.rq2_wgray := by decide

/-- The fault is reached only in a state no run reaches: a pointer ahead of an unwritten cell. -/
theorem witness_PopStopsOnlyOnAnUnwrittenCell :
    exec .pop { s0 with rq2_wgray := 1 } = .fault .unwrittenCell ∧
    exec .pop oneByte = .next (after (exec .pop oneByte)) := ⟨rfl, next_after _ (by decide)⟩

theorem witness_RnopFollowsItsRule :
    BitVec.getLsbD 0xE#4 0 = false ∧ oneByte.rst = false ∧ oneByte.rgray ≠ oneByte.rq2_wgray := by decide

theorem witness_EventMessages :
    evtPort (atQ 0b10#2) true false false = some { domain := 0x01#8, id := 0x0002#16, data := 0#64 } := by decide

theorem witness_WriteSideFrame :
    exec (.push 0xA5#8) s0 = .next (after (exec (.push 0xA5#8) s0)) ∧ writeAddr s0 = 0 ∧
    exec (.push 0xA5#8) fullQueue = .next (after (exec (.push 0xA5#8) fullQueue)) ∧ wfull fullQueue = true ∧
    exec .wnop s0 = .next (after (exec .wnop s0)) :=
  ⟨next_after _ (by decide), by decide, next_after _ (by decide), by decide, next_after _ (by decide)⟩

theorem witness_ReadSideFrame :
    exec .pop oneByte = .next (after (exec .pop oneByte)) ∧ exec .pop s0 = .next (after (exec .pop s0)) ∧
    rempty s0 = true ∧ exec .rnop oneByte = .next (after (exec .rnop oneByte)) :=
  ⟨next_after _ (by decide), next_after _ (by decide), by decide, next_after _ (by decide)⟩

theorem witness_PortsShowTheResults :
    oneByte.rst = false ∧ rdEmpty oneByte = false ∧ exec .pop oneByte = .next (after (exec .pop oneByte)) ∧
    rdEmpty s0 = true ∧ exec .pop s0 = .next (after (exec .pop s0)) ∧
    exec (.qstep false true) s0 = .next (after (exec (.qstep false true) s0)) ∧
    exec .rnop s0 = .next (after (exec .rnop s0)) ∧ (after (exec .rnop s0)).rq2_wgray = s0.rq2_wgray :=
  ⟨by decide, by decide, next_after _ (by decide), by decide, next_after _ (by decide), next_after _ (by decide),
    next_after _ (by decide), by decide⟩

theorem witness_UngrayInvertsGray : 7 < 2 ^ 3 ∧ 0 < 2 ^ 0 := by decide

theorem witness_GrayStepsOneBit : 1 ≤ 11 ∧ 2047 < 2 ^ 11 ∧ 0 < 2 ^ 1 := by decide

theorem witness_FullTestOnGrayCodes :
    fullQueue.cfg.consistent = true ∧ fullQueue.wbin < 2 ^ fullQueue.cfg.PW ∧ fullQueue.wgray = gray fullQueue.wbin ∧
    fullQueue.wq2_rgray < 2 ^ fullQueue.cfg.PW ∧ wfull fullQueue = true ∧ wfull oneByte = false := by decide

theorem witness_EmptyTestOnBinaryPointers :
    fullQueue.rbin < 2 ^ fullQueue.cfg.PW ∧ fullQueue.rgray = gray fullQueue.rbin ∧
    fullQueue.rq2_wgray < 2 ^ fullQueue.cfg.PW ∧ rempty fullQueue = false ∧ rempty s0 = true := by decide

theorem witness_SynchroniserAtEveryEdge :
    fullQueue.rst = false ∧
    applyEdge { word := .p 0x1A5#9, stale := true } fullQueue =
      .next (after (applyEdge { word := .p 0x1A5#9, stale := true } fullQueue)) ∧
    applyEdge { word := .c 0x1#4, stale := true } fullQueue =
      .next (after (applyEdge { word := .c 0x1#4, stale := true } fullQueue)) :=
  ⟨by decide, next_after _ (by decide), next_after _ (by decide)⟩

/-! ### Witnesses: the invariant and runs -/

theorem witness_InvariantHoldsAfterReset : Config.default.consistent = true ∧ least.consistent = true := by decide

theorem witness_EveryStepKeepsTheInvariant :
    Inv (fullValid.setPending [edgeC 0x1#4]) ∧
    step (fullValid.setPending [edgeC 0x1#4]) = .next (after (step (fullValid.setPending [edgeC 0x1#4]))) :=
  ⟨inv_of_checks (by decide), next_after _ (by decide)⟩

theorem witness_NoStepEverStops : Inv oneByte ∧ Inv heldReset ∧ Inv fullValid ∧ fullValid.cfg.valid = true :=
  ⟨inv_of_checks (by decide), inv_of_checks (by decide), inv_of_checks (by decide), by decide⟩

theorem witness_ViewsStayInOrder : Inv fullQueue ∧ wfull fullQueue = true ∧ Inv s0 ∧ rempty s0 = true :=
  ⟨inv_of_checks (by decide), by decide, inv_of_checks (by decide), by decide⟩

theorem witness_ViewsNeverDecrease :
    Inv fullQueue ∧ edgeIsR (edgeC 0x1#4) = false ∧
    applyEdge (edgeC 0x1#4) fullQueue = .next (after (applyEdge (edgeC 0x1#4) fullQueue)) :=
  ⟨inv_of_checks (by decide), by decide, next_after _ (by decide)⟩

theorem witness_NoRaceOnACell : Inv oneByte ∧ wfull oneByte = false ∧ rempty oneByte = false ∧ 0 < viewWs oneByte :=
  ⟨inv_of_checks (by decide), by decide, by decide, by decide⟩

theorem witness_FlagsArePessimistic : Inv oneByte ∧ wfull oneByte = false ∧ rempty oneByte = false :=
  ⟨inv_of_checks (by decide), by decide, by decide⟩

theorem witness_EveryEdgeKeepsTheQueueContents :
    RunInv (ran [edgeP 0x1A5#9, edgeC 0x1#4, edgeC 0x1#4] s0) ∧
    (ran [edgeP 0x1A5#9, edgeC 0x1#4, edgeC 0x1#4] s0).edge (edgeC 0x1#4) =
      some (ran [edgeP 0x1A5#9, edgeC 0x1#4, edgeC 0x1#4, edgeC 0x1#4] s0) :=
  ⟨⟨inv_of_checks (by decide), by decide, by decide, by decide⟩, by decide⟩

theorem witness_BytesLeaveInOrder :
    Inv s0 ∧ s0.Wt = s0.Rt ∧ noReset [edgeP 0x1A5#9, edgeC 0x1#4, edgeC 0x1#4, edgeC 0x1#4] = true ∧
    (ran [edgeP 0x1A5#9, edgeC 0x1#4, edgeC 0x1#4, edgeC 0x1#4] s0).popped = [0xA5#8] :=
  ⟨inv_of_checks (by decide), by decide, by decide, by decide⟩

theorem witness_BurstKeepsExactlyTheCapacity :
    Inv oneByte ∧ oneByte.rst = false ∧ viewRs oneByte = oneByte.Rt ∧
    [edgeP 0x111#9, edgeC 0x0#4, edgeP 0x0A5#9].all noPoll = true ∧ least.consistent = true :=
  ⟨inv_of_checks (by decide), by decide, by decide, by decide, by decide⟩

theorem witness_OverflowIsASilentDrop :
    Inv fullQueue ∧ fullQueue.rst = false ∧ BitVec.getLsbD 0x114#9 8 = true ∧ wfull fullQueue = true ∧
    applyEdge (edgeP 0x114#9) fullQueue = .next (after (applyEdge (edgeP 0x114#9) fullQueue)) ∧
    Inv oneByte ∧ oneByte.rst = false ∧ wfull oneByte = false ∧
    applyEdge (edgeP 0x114#9) oneByte = .next (after (applyEdge (edgeP 0x114#9) oneByte)) :=
  ⟨inv_of_checks (by decide), by decide, by decide, by decide, next_after _ (by decide), inv_of_checks (by decide),
    by decide, by decide, next_after _ (by decide)⟩

theorem witness_CrossingTakesAtMostThreeEdges :
    Inv (ran [edgeP 0x1A5#9] s0).s ∧ (ran [edgeP 0x1A5#9] s0).s.rst = false ∧
    noReset [staleC 0x0#4, edgeP 0x0#9, edgeC 0x0#4, edgeP 0x0#9, edgeC 0x0#4, edgeP 0x0#9] = true ∧
    3 ≤ countC [staleC 0x0#4, edgeP 0x0#9, edgeC 0x0#4, edgeP 0x0#9, edgeC 0x0#4, edgeP 0x0#9] ∧
    3 ≤ countP [staleC 0x0#4, edgeP 0x0#9, edgeC 0x0#4, edgeP 0x0#9, edgeC 0x0#4, edgeP 0x0#9] ∧
    Run.edges [staleC 0x0#4, edgeP 0x0#9, edgeC 0x0#4, edgeP 0x0#9, edgeC 0x0#4, edgeP 0x0#9]
      (Run.start (ran [edgeP 0x1A5#9] s0).s) =
      some (ran [staleC 0x0#4, edgeP 0x0#9, edgeC 0x0#4, edgeP 0x0#9, edgeC 0x0#4, edgeP 0x0#9]
        (ran [edgeP 0x1A5#9] s0).s) :=
  ⟨inv_of_checks (by decide), by decide, by decide, by decide, by decide, edges_ran _ _ (by decide)⟩

/-- Vector B2: the longest case. -/
theorem witness_PushedByteArrivesAtThirdOrFourthEdge :
    Inv s0 ∧ s0.rst = false ∧ s0.Wt = s0.Rt ∧ wfull s0 = false ∧ (edgeP 0x1A5#9).word = .p 0x1A5#9 ∧
    writeOp 0x1A5#9 = .push 0xA5#8 ∧ noReset [staleC 0x1#4, edgeC 0x1#4, edgeC 0x1#4, edgeC 0x1#4] = true ∧
    [staleC 0x1#4, edgeC 0x1#4, edgeC 0x1#4, edgeC 0x1#4].all polls = true ∧
    4 ≤ countC [staleC 0x1#4, edgeC 0x1#4, edgeC 0x1#4, edgeC 0x1#4] ∧ countC [staleC 0x1#4, edgeC 0x1#4] ≤ 2 ∧
    Run.edges (edgeP 0x1A5#9 :: [staleC 0x1#4, edgeC 0x1#4, edgeC 0x1#4, edgeC 0x1#4]) (Run.start s0) =
      some (ran (edgeP 0x1A5#9 :: [staleC 0x1#4, edgeC 0x1#4, edgeC 0x1#4, edgeC 0x1#4]) s0) ∧
    (ran (edgeP 0x1A5#9 :: [staleC 0x1#4, edgeC 0x1#4, edgeC 0x1#4]) s0).popped = [] :=
  ⟨inv_of_checks (by decide), by decide, by decide, by decide, by decide, by decide, by decide, by decide, by decide,
    by decide, edges_ran _ _ (by decide), by decide⟩

/-- Vector B4: the shortest case. -/
theorem witness_FreedCellArrivesAtThirdOrFourthEdge :
    Inv fullQueue ∧ fullQueue.rst = false ∧ fullQueue.Wt = fullQueue.Rt + fullQueue.cfg.fifo_depth ∧
    (edgeC 0x1#4).word = .c 0x1#4 ∧ readOp 0x1#4 = .pop ∧ rempty fullQueue = false ∧
    noReset [edgeP 0x124#9, edgeP 0x125#9, edgeP 0x126#9, edgeP 0x127#9] = true ∧
    [edgeP 0x124#9, edgeP 0x125#9, edgeP 0x126#9, edgeP 0x127#9].all pushes = true ∧
    4 ≤ countP [edgeP 0x124#9, edgeP 0x125#9, edgeP 0x126#9, edgeP 0x127#9] ∧
    countP [edgeP 0x124#9, edgeP 0x125#9] ≤ 2 ∧
    Run.edges (edgeC 0x1#4 :: [edgeP 0x124#9, edgeP 0x125#9, edgeP 0x126#9, edgeP 0x127#9]) (Run.start fullQueue) =
      some (ran (edgeC 0x1#4 :: [edgeP 0x124#9, edgeP 0x125#9, edgeP 0x126#9, edgeP 0x127#9]) fullQueue) ∧
    (ran (edgeC 0x1#4 :: [edgeP 0x124#9, edgeP 0x125#9, edgeP 0x126#9, edgeP 0x127#9]) fullQueue).accepted = [0x26#8] :=
  ⟨inv_of_checks (by decide), by decide, by decide, by decide, by decide, by decide, by decide, by decide, by decide,
    by decide, edges_ran _ _ (by decide), by decide⟩

theorem witness_MachineRefinesTheContract :
    Inv oneByte ∧ oneByte.rst = false ∧
    applyEdge (edgeP 0x1A5#9) oneByte = .next (after (applyEdge (edgeP 0x1A5#9) oneByte)) ∧
    writeOp 0x1A5#9 = .push 0xA5#8 ∧
    applyEdge (edgeP 0x0A5#9) oneByte = .next (after (applyEdge (edgeP 0x0A5#9) oneByte)) ∧ writeOp 0x0A5#9 = .wnop ∧
    applyEdge (edgeC 0x1#4) oneByte = .next (after (applyEdge (edgeC 0x1#4) oneByte)) ∧ readOp 0x1#4 = .pop ∧
    applyEdge (edgeC 0xE#4) oneByte = .next (after (applyEdge (edgeC 0xE#4) oneByte)) ∧ readOp 0xE#4 = .rnop ∧
    applyEdge reset1 oneByte = .next (after (applyEdge reset1 oneByte)) ∧ reset1.word = .r 1#1 :=
  ⟨inv_of_checks (by decide), by decide, next_after _ (by decide), by decide, next_after _ (by decide), by decide,
    next_after _ (by decide), by decide, next_after _ (by decide), by decide, next_after _ (by decide), by decide⟩

/-! ### Witnesses: between the agents -/

theorem witness_SlotsOfAnEdgeCommute :
    Instr.slot (.qstep true false) = .qdec ∧ Instr.slot .qnop = .qdec ∧ Instr.slot .pop = .read ∧
    Instr.slot .rnop = .read := by decide

theorem witness_DomainsWriteOnlyTheirOwn :
    applyEdge (edgeP 0x1A5#9) oneByte = .next (after (applyEdge (edgeP 0x1A5#9) oneByte)) ∧
    edgeIsP (edgeP 0x1A5#9) = true ∧
    applyEdge (edgeC 0xF#4) oneByte = .next (after (applyEdge (edgeC 0xF#4) oneByte)) ∧
    edgeIsC (edgeC 0xF#4) = true :=
  ⟨next_after _ (by decide), by decide, next_after _ (by decide), by decide⟩

/-- Two states that differ in the queue alone, and two that differ in the decoder alone. -/
theorem witness_UnitsShareNothing :
    fullQueue.cfg = s0.cfg ∧ fullQueue.rst = s0.rst ∧ fullQueue.q = s0.q ∧ fullQueue.db_cnt = s0.db_cnt ∧
    fullQueue.evt = s0.evt ∧
    { s0 with q := (atQ 0b10#2).q, db_cnt := (atQ 0b10#2).db_cnt, evt := (atQ 0b10#2).evt,
              pending := (atQ 0b10#2).pending, edgeIx := (atQ 0b10#2).edgeIx } = atQ 0b10#2 ∧
    applyEdge (edgeC 0x9#4) s0 = .next (after (applyEdge (edgeC 0x9#4) s0)) ∧
    applyEdge (edgeC 0x9#4) fullQueue = .next (after (applyEdge (edgeC 0x9#4) fullQueue)) ∧
    applyEdge (edgeC 0x9#4) (atQ 0b10#2) = .next (after (applyEdge (edgeC 0x9#4) (atQ 0b10#2))) :=
  ⟨by decide, by decide, by decide, by decide, by decide, by decide, next_after _ (by decide), next_after _ (by decide),
    next_after _ (by decide)⟩

end Sys2Proof.Tests
end

section
/-! PROOFS. The family of 00_scope.md: the Gray codes of R7, the parameters of R6, and the two units of R5. -/

namespace Sys2Proof.Machine

/-! ### Gray codes (R7) -/

/-- Undoing a Gray code from bit `n` down, given the word's bit `n`, gives back the word's bits below `n`: each
recovered bit is the `above` of the next one. -/
theorem ungrayBelow_gray (b n : Nat) : ungrayBelow (gray b) n (b.testBit n) = b % 2 ^ n := by
  induction n with
  | zero => rw [ungrayBelow, Nat.pow_zero, Nat.mod_one]
  | succ n ih =>
    have hbit : Bool.xor ((gray b).testBit n) (b.testBit (n + 1)) = b.testBit n := by simp
    rw [ungrayBelow, hbit, ih, Nat.mod_pow_succ, ← Nat.toNat_testBit]
    cases b.testBit n <;> simp [Nat.add_comm]

theorem ungray_gray {n b : Nat} (h : b < 2 ^ n) : ungray n (gray b) = b := by
  have := ungrayBelow_gray b n
  rwa [Nat.testBit_lt_two_pow h, Nat.mod_eq_of_lt h] at this

/-- The bits of an ungrayed word, by R7's recurrence; bit `n` is 0. -/
theorem testBit_ungray {n g i : Nat} (h : i < n) :
    (ungray n g).testBit i = Bool.xor (g.testBit i) ((ungray n g).testBit (i + 1)) := by
  rw [ungray, testBit_ungrayBelow g n false i h]
  split
  · rename_i hn
    rw [hn, Nat.testBit_lt_two_pow (ungrayBelow_lt g n false)]
  · rfl

theorem gray_ungray {n g : Nat} (h : g < 2 ^ n) : gray (ungray n g) = g := by
  apply Nat.eq_of_testBit_eq
  intro i
  by_cases hi : i < n
  · rw [testBit_gray, testBit_ungray hi]
    simp
  · have hp : 2 ^ n ≤ 2 ^ i := Nat.pow_le_pow_right (by decide) (Nat.le_of_not_lt hi)
    have hu : gray (ungray n g) < 2 ^ n := gray_lt (ungray_lt n g)
    rw [Nat.testBit_lt_two_pow (hu.trans_le hp), Nat.testBit_lt_two_pow (h.trans_le hp)]

/-- Settles O35: one direction by induction on the width, the other bit by bit. -/
theorem ungrayInvertsGray : Obligations.UngrayInvertsGray :=
  fun _ _ h => ⟨ungray_gray h, gray_ungray h⟩

/-! ### Parameters (R6) -/

/-- `CW` is the least width of at least one bit that counts `W` values. -/
theorem CW_le_iff (c : Config) {n : Nat} (hn : 1 ≤ n) : c.CW ≤ n ↔ c.W ≤ 2 ^ n := by
  have hp : 1 ≤ 2 ^ n := Nat.one_le_two_pow
  unfold Config.CW
  split
  · omega
  · rw [Nat.add_one_le_iff, Nat.log2_lt (by omega)]
    omega

theorem one_le_CW (c : Config) : 1 ≤ c.CW := by
  unfold Config.CW
  split <;> omega

theorem W_le_two_pow_CW (c : Config) : c.W ≤ 2 ^ c.CW := (CW_le_iff c (one_le_CW c)).1 le_rfl

/-- At 3 ms the window is three cycles for each kHz of `clk_c`. -/
theorem W_of_valid {c : Config} (h : c.valid = true) : c.W = c.f_clk_c_hz / 1000 * 3 := by
  obtain ⟨hwhole, -, -, -⟩ := consistent_parts (consistent_of_valid h)
  have hns : c.debounce_ns = 3000000 := of_decide_eq_true (Bool.and_eq_true_iff.1 h).1
  rw [hns] at hwhole
  rw [Config.W, hns]
  omega

/-- Settles O8: `CW` by `CW_le_iff`, the rest by the constraints a consistent configuration keeps. -/
theorem derivedWidths : Obligations.DerivedWidths := by
  refine ⟨fun c h => ⟨consistent_of_valid h, W_of_valid h⟩, fun c h => ?_⟩
  obtain ⟨hwhole, hW, -, hdepth⟩ := consistent_parts h
  have hfit : c.W ≤ 2 ^ c.CW := W_le_two_pow_CW c
  have hPW : 2 ^ c.PW = 2 * c.fifo_depth := by rw [Config.PW, Nat.pow_succ', hdepth]
  exact ⟨one_le_CW c, hfit, fun _ hn => (CW_le_iff c hn).2, by omega,
    Nat.div_mul_cancel (Nat.dvd_of_mod_eq_zero hwhole), hdepth, rfl, hPW⟩

theorem allDistinct_iff (xs : List (BitVec 16)) : allDistinct xs = true ↔ xs.Nodup := by
  induction xs with
  | nil => simp [allDistinct]
  | cons x xs ih =>
    have hx : (∀ y ∈ xs, x ≠ y) ↔ x ∉ xs := ⟨fun h hm => h x hm rfl, fun h y hy e => h (e ▸ hy)⟩
    simp only [allDistinct, Bool.and_eq_true, List.all_eq_true, decide_eq_true_eq, ih, hx, List.nodup_cons]

/-- `AW` addresses the whole storage exactly where the depth is a power of two. -/
theorem two_pow_AW_iff (c : Config) : 2 ^ c.AW = c.fifo_depth ↔ ∃ n, c.fifo_depth = 2 ^ n := by
  constructor
  · exact fun h => ⟨c.AW, h.symm⟩
  · rintro ⟨n, hn⟩
    rw [Config.AW, hn, Nat.log2_two_pow]

/-- The constraints of a valid configuration, written out. -/
theorem valid_iff (c : Config) : c.valid = true ↔
    c.debounce_ns = debounceNs ∧ c.debounce_ns * c.f_clk_c_hz % 1000000000 = 0 ∧ 1 ≤ c.W ∧ 2 ≤ c.fifo_depth ∧
    (∃ n, c.fifo_depth = 2 ^ n) ∧ c.domain_canbus ≠ c.domain_local ∧ c.ids.Nodup := by
  simp only [Config.valid, Config.consistent, Bool.and_eq_true, decide_eq_true_eq, allDistinct_iff, two_pow_AW_iff,
    and_assoc]

/-! ### Refusals (V8) -/

/-- Every operation has a meaning on every state. -/
theorem exec_ne_refused (i : Instr) (s : State) (r : Refusal) : exec i s ≠ .refused r := by
  cases i with
  | reset => simp [exec_reset]
  | qstep a b =>
    by_cases hk : inputState a b = s.q ∨ s.db_cnt ≠ 0
    · simp [exec_qstep_kept s a b hk]
    · obtain ⟨hc, hg⟩ := not_or.1 hk
      simp [exec_qstep_accepted s a b hc (not_not.1 hg)]
  | qnop => simp [exec_qnop]
  | pop =>
    cases he : rempty s with
    | true => simp [exec_pop_empty s he]
    | false =>
      cases hb : s.mem.read (readAddr s) with
      | some b => simp [exec_pop_byte s b he hb]
      | none => simp [exec, execPop, he, hb]
  | rnop => simp [exec_rnop]
  | push d =>
    cases hf : wfull s with
    | true => simp [exec_push_dropped s d hf]
    | false => simp [exec_push_accepted s d hf]
  | wnop => simp [exec_wnop]

/-- No event is refused, whatever its word. -/
theorem applyWord_ne_refused (w : PortWord) (s : State) (r : Refusal) : applyWord w s ≠ .refused r := by
  cases w with
  | c w =>
    cases hr : s.rst with
    | true => simp [applyWord_c_held w s hr]
    | false =>
      obtain ⟨q, n, e, hq, -⟩ := exec_qdecOp w s
      rw [applyWord_c w s hr, hq, andThen_of_next]
      exact exec_ne_refused _ _ r
  | p w =>
    cases hr : s.rst with
    | true => simp [applyWord_p_held w s hr]
    | false =>
      rw [applyWord_p w s hr]
      exact exec_ne_refused _ _ r
  | r w =>
    rcases wordR_cases w with rfl | rfl
    · simp [applyWord_reset]
    · simp [applyWord_release]

theorem step_refused_iff (s : State) : (∃ r, step s = .refused r) ↔ s.cfg.valid = false := by
  constructor
  · rintro ⟨r, hr⟩
    by_contra hv
    rw [step_eq s (by simpa using hv)] at hr
    exact applyWord_ne_refused _ _ r hr
  · intro hv
    exact ⟨.badConfiguration, by simp [step, stepBlock, hv]⟩

/-- Settles O6: no event is refused, so only the test of the parameters refuses a step. -/
theorem onlyBadParametersAreRefused : Obligations.OnlyBadParametersAreRefused :=
  ⟨step_refused_iff, valid_iff⟩

/-! ### The two units (R5)

Each unit is a part of the state: the state with the other unit's registers blanked. An operation of the unit runs on
that part alone; an operation of the other unit leaves the part as it was. So one event takes equal parts to equal
parts. -/

/-- The decoder, with the parameters and the reset pin; everything else as after reset. -/
def State.decoderPart (s : State) : State :=
  { State.resetWith s.cfg with q := s.q, db_cnt := s.db_cnt, rst := s.rst, evt := s.evt }

/-- The queue, with the parameters, the reset pin and the draw; the decoder and the edges to come as after reset. -/
def State.queuePart (s : State) : State :=
  { s with q := 0#2, db_cnt := 0, evt := none, pending := [], edgeIx := 0 }

/-- Where `f` answers next states, equal parts before give equal parts after. -/
def RespectsPart (part : State → State) (f : State → Host.Outcome State Fault Refusal) : Prop :=
  ∀ ⦃s1 s2 t1 t2⦄, part s1 = part s2 → f s1 = .next t1 → f s2 = .next t2 → part t1 = part t2

section
variable {part : State → State} {f : State → Host.Outcome State Fault Refusal}

/-- What leaves the part as it was respects it. -/
theorem respectsPart_of_frame (h : ∀ s t, f s = .next t → part t = part s) : RespectsPart part f := by
  intro s1 s2 t1 t2 hp h1 h2
  rw [h s1 t1 h1, h s2 t2 h2, hp]

/-- What can be run on the part alone respects it. -/
theorem respectsPart_of_local (h : ∀ s t, f s = .next t → f (part s) = .next (part t)) : RespectsPart part f := by
  intro s1 s2 t1 t2 hp h1 h2
  have e1 := h s1 t1 h1
  rw [hp, h s2 t2 h2] at e1
  exact (Host.Outcome.next.inj e1).symm

/-- One event respects a part that holds the reset pin when the slots and the pin's own updates do. -/
theorem respectsPart_applyEdge (e : EdgeIn) (hrst : ∀ s, (part s).rst = s.rst)
    (hdraw : ∀ d, RespectsPart part (fun s => .next (s.setDraw d)))
    (hpin : ∀ l, RespectsPart part (fun s => .next (s.setRst l)))
    (hreset : RespectsPart part (exec .reset))
    (hqdec : ∀ w, RespectsPart part (exec (qdecOp w)))
    (hread : ∀ w, RespectsPart part (exec (readOp w)))
    (hwrite : ∀ w, RespectsPart part (exec (writeOp w))) : RespectsPart part (applyEdge e) := by
  intro s1 s2 t1 t2 hp h1 h2
  have hr : s2.rst = s1.rst := by rw [← hrst s1, ← hrst s2, hp]
  have hd : part (s1.setDraw e.stale) = part (s2.setDraw e.stale) := hdraw e.stale hp rfl rfl
  cases hw : e.word with
  | c w =>
    have hn : edgeIsR e = false := by simp [edgeIsR, hw]
    cases h : s1.rst with
    | true => rwa [edge_held h hn h1, edge_held (hr.trans h) hn h2]
    | false =>
      obtain ⟨u1, hu1, ht1⟩ := edgeC_next hw h h1
      obtain ⟨u2, hu2, ht2⟩ := edgeC_next hw (hr.trans h) h2
      exact hread w (hqdec w hd hu1 hu2) ht1 ht2
  | p w =>
    have hn : edgeIsR e = false := by simp [edgeIsR, hw]
    cases h : s1.rst with
    | true => rwa [edge_held h hn h1, edge_held (hr.trans h) hn h2]
    | false => exact hwrite w hd (edgeP_next hw h h1) (edgeP_next hw (hr.trans h) h2)
  | r w =>
    rw [applyEdge, hw] at h1 h2
    rcases wordR_cases w with rfl | rfl
    · exact hreset (hpin true hd rfl rfl) h1 h2
    · exact hpin false hd h1 h2

end

/-- QSTEP and QNOP read and write the decoder alone. -/
theorem exec_qdecOp_decoderPart (w : BitVec 4) (s t : State) (h : exec (qdecOp w) s = .next t) :
    exec (qdecOp w) s.decoderPart = .next t.decoderPart := by
  unfold qdecOp at h ⊢
  split at h
  · rename_i hstep
    rw [if_pos hstep]
    by_cases hk : inputState (w.getLsbD 2) (w.getLsbD 1) = s.q ∨ s.db_cnt ≠ 0
    · rw [exec_qstep_kept s _ _ hk] at h
      cases h
      exact exec_qstep_kept s.decoderPart _ _ hk
    · obtain ⟨hc, hg⟩ := not_or.1 hk
      rw [exec_qstep_accepted s _ _ hc (not_not.1 hg)] at h
      cases h
      exact exec_qstep_accepted s.decoderPart _ _ hc (not_not.1 hg)
  · rename_i hstep
    rw [exec_qnop] at h
    rw [if_neg hstep]
    cases h
    exact exec_qnop s.decoderPart

/-- QSTEP and QNOP leave the queue as it was. -/
theorem exec_qdecOp_queuePart (w : BitVec 4) (s t : State) (h : exec (qdecOp w) s = .next t) :
    t.queuePart = s.queuePart := by
  obtain ⟨q, n, e, hq, -⟩ := exec_qdecOp w s
  rw [hq] at h
  cases h
  rfl

/-- POP and RNOP leave the decoder as it was. -/
theorem exec_readOp_decoderPart (w : BitVec 4) (s t : State) (h : exec (readOp w) s = .next t) :
    t.decoderPart = s.decoderPart := by
  rcases exec_readOp_next h with ⟨r, -, rfl, -⟩ | ⟨b, -, -, -, rfl⟩ <;> rfl

/-- POP and RNOP read and write the queue alone. -/
theorem exec_readOp_queuePart (w : BitVec 4) (s t : State) (h : exec (readOp w) s = .next t) :
    exec (readOp w) s.queuePart = .next t.queuePart := by
  unfold readOp at h ⊢
  split at h
  · rename_i hpop
    rw [if_pos hpop]
    rcases exec_pop_next h with ⟨he, rfl⟩ | ⟨b, he, hb, rfl⟩
    · exact exec_pop_empty s.queuePart he
    · exact exec_pop_byte s.queuePart b he hb
  · rename_i hpop
    rw [exec_rnop] at h
    rw [if_neg hpop]
    cases h
    exact exec_rnop s.queuePart

/-- PUSH and WNOP leave the decoder as it was. -/
theorem exec_writeOp_decoderPart (w : BitVec 9) (s t : State) (h : exec (writeOp w) s = .next t) :
    t.decoderPart = s.decoderPart := by
  rcases exec_writeOp w s with ⟨hx, -⟩ | ⟨d, -, -, hx⟩ <;> (rw [hx] at h; cases h; rfl)

/-- PUSH and WNOP read and write the queue alone. -/
theorem exec_writeOp_queuePart (w : BitVec 9) (s t : State) (h : exec (writeOp w) s = .next t) :
    exec (writeOp w) s.queuePart = .next t.queuePart := by
  unfold writeOp at h ⊢
  split at h
  · rename_i hpush
    rw [if_pos hpush]
    cases hf : wfull s with
    | true =>
      rw [exec_push_dropped s _ hf] at h
      cases h
      exact exec_push_dropped s.queuePart _ hf
    | false =>
      rw [exec_push_accepted s _ hf] at h
      cases h
      exact exec_push_accepted s.queuePart _ hf
  · rename_i hpush
    rw [exec_wnop] at h
    rw [if_neg hpush]
    cases h
    exact exec_wnop s.queuePart

/-- What the decoder holds after an event depends on the decoder alone. -/
theorem applyEdge_respects_decoderPart (e : EdgeIn) : RespectsPart State.decoderPart (applyEdge e) := by
  refine respectsPart_applyEdge e (fun _ => rfl) (fun d => ?_) (fun l => ?_) ?_ (fun w => ?_) (fun w => ?_)
    (fun w => ?_)
  · exact respectsPart_of_frame fun s t h => by cases h; rfl
  · exact respectsPart_of_local fun s t h => by cases h; rfl
  · exact respectsPart_of_local fun s t h => by cases h; rfl
  · exact respectsPart_of_local (exec_qdecOp_decoderPart w)
  · exact respectsPart_of_frame (exec_readOp_decoderPart w)
  · exact respectsPart_of_frame (exec_writeOp_decoderPart w)

/-- What the queue holds after an event depends on the queue alone. -/
theorem applyEdge_respects_queuePart (e : EdgeIn) : RespectsPart State.queuePart (applyEdge e) := by
  refine respectsPart_applyEdge e (fun _ => rfl) (fun d => ?_) (fun l => ?_) ?_ (fun w => ?_) (fun w => ?_)
    (fun w => ?_)
  · exact respectsPart_of_local fun s t h => by cases h; rfl
  · exact respectsPart_of_local fun s t h => by cases h; rfl
  · exact respectsPart_of_local fun s t h => by cases h; rfl
  · exact respectsPart_of_frame (exec_qdecOp_queuePart w)
  · exact respectsPart_of_local (exec_readOp_queuePart w)
  · exact respectsPart_of_local (exec_writeOp_queuePart w)

/-- Equal decoder parts: the parameters, the decoder's registers, the pin and the Message agree. -/
theorem decoderPart_eq_iff (s t : State) : s.decoderPart = t.decoderPart ↔
    s.cfg = t.cfg ∧ s.q = t.q ∧ s.db_cnt = t.db_cnt ∧ s.rst = t.rst ∧ s.evt = t.evt := by
  simp [State.decoderPart, State.resetWith]

/-- Equal queue parts: with the other's decoder and edges to come, the one state is the other. -/
theorem queuePart_eq_iff (s t : State) : s.queuePart = t.queuePart ↔
    { s with q := t.q, db_cnt := t.db_cnt, evt := t.evt, pending := t.pending, edgeIx := t.edgeIx } = t := by
  constructor
  · intro h
    exact congrArg (fun u : State =>
      { u with q := t.q, db_cnt := t.db_cnt, evt := t.evt, pending := t.pending, edgeIx := t.edgeIx }) h
  · intro h
    have hpart := congrArg State.queuePart h
    exact hpart

/-- Settles O57: an event takes equal decoder parts to equal decoder parts, and equal queue parts likewise. -/
theorem unitsShareNothing : Obligations.UnitsShareNothing := by
  intro e s1 s2 t1 t2 hcfg hrst h1 h2
  constructor
  · intro hq hcnt hevt
    have hpart := (decoderPart_eq_iff s1 s2).2 ⟨hcfg, hq, hcnt, hrst, hevt⟩
    obtain ⟨-, hq', hcnt', -, hevt'⟩ := (decoderPart_eq_iff t1 t2).1 (applyEdge_respects_decoderPart e hpart h1 h2)
    exact ⟨hq', hcnt', hevt'⟩
  · intro h
    exact (queuePart_eq_iff t1 t2).1 (applyEdge_respects_queuePart e ((queuePart_eq_iff s1 s2).2 h) h1 h2)

end Sys2Proof.Machine
end

section
/-! PROOFS. The family of 10_state.md: what each operation and each clock edge leaves unchanged, the state after reset,
and the listed edges run in order. -/

namespace Sys2Proof.Machine

/-! ### The words of a slot

Every operation of a slot is what some word carries there, so what the laws say of a word's slot they say of each
operation. -/

theorem exists_qdecOp {i : Instr} (h : i.slot = .qdec) : ∃ w, qdecOp w = i := by
  cases i with
  | qstep a b => exact ⟨wordC true a b false, by cases a <;> cases b <;> rfl⟩
  | qnop => exact ⟨0#4, rfl⟩
  | reset | pop | rnop | push _ | wnop => cases h

theorem exists_readOp {i : Instr} (h : i.slot = .read) : ∃ w, readOp w = i := by
  cases i with
  | pop => exact ⟨1#4, rfl⟩
  | rnop => exact ⟨0#4, rfl⟩
  | reset | qstep _ _ | qnop | push _ | wnop => cases h

theorem exists_writeOp {i : Instr} (h : i.slot = .write) : ∃ w, writeOp w = i := by
  cases i with
  | push d =>
    have hen : (wordP true d).getLsbD 8 = true := by rw [wordP, BitVec.getLsbD_append]; rfl
    have hdata : (wordP true d).extractLsb' 0 8 = d := BitVec.extractLsb'_append_eq_right
    exact ⟨wordP true d, by rw [writeOp, if_pos hen, hdata]⟩
  | wnop => exact ⟨0#9, rfl⟩
  | reset | qstep _ _ | qnop | pop | rnop => cases h

/-- What a QDEC slot leaves: the decoder's registers and the result assigned, kept or accepted. -/
theorem exec_qdecOp_next {w : BitVec 4} {s t : State} (h : exec (qdecOp w) s = .next t) :
    ∃ q n e, t = s.setQdec q n e ∧
      (q = s.q ∨ ∃ a b, qdecOp w = .qstep a b ∧ q = inputState a b ∧ s.db_cnt = 0 ∧ n = s.cfg.W - 1) := by
  obtain ⟨q, n, e, hx, hcase⟩ := exec_qdecOp w s
  rw [hx] at h
  cases h
  refine ⟨q, n, e, rfl, hcase.imp (fun hkept => hkept.1) ?_⟩
  rintro ⟨a, b, hop, hq, -, hgate, hn, -⟩
  exact ⟨a, b, hop, hq, hgate, hn⟩

/-- What the write slot leaves: the shift alone, or a byte stored at `writeAddr s` and the shift. -/
theorem exec_writeOp_next {w : BitVec 9} {s t : State} (h : exec (writeOp w) s = .next t) :
    t = s.shiftP ∨
    ∃ d, writeOp w = .push d ∧ wfull s = false ∧
      t = (s.setWrite (s.mem.write (writeAddr s) d) (incMod s.cfg.PW s.wbin)).shiftP := by
  rcases exec_writeOp w s with ⟨hx, -⟩ | ⟨d, hpush, hroom, hx⟩
  · rw [hx] at h
    exact .inl (Host.Outcome.next.inj h).symm
  · rw [hx] at h
    exact .inr ⟨d, hpush, hroom, (Host.Outcome.next.inj h).symm⟩

/-! ### Frames of the operations (R25) -/

/-- Settles O19: what a QDEC slot assigns is a `setQdec`. -/
theorem qdecFrame : Obligations.QdecFrame := by
  intro i s t hi h
  have hslot : i.slot = .qdec := by rcases hi with ⟨a, b, rfl⟩ | rfl <;> rfl
  obtain ⟨w, rfl⟩ := exists_qdecOp hslot
  obtain ⟨q, n, e, rfl, -⟩ := exec_qdecOp_next h
  simp

/-- Settles O32: either the shift alone, or a byte stored at `writeAddr s` and then the shift. -/
theorem writeSideFrame : Obligations.WriteSideFrame := by
  intro i s t hi h
  have hslot : i.slot = .write := by rcases hi with ⟨d, rfl⟩ | rfl <;> rfl
  obtain ⟨w, rfl⟩ := exists_writeOp hslot
  rcases exec_writeOp_next h with rfl | ⟨d, hpush, hroom, rfl⟩
  · simp
  · refine ⟨?_, fun hnone => ?_, by simp⟩
    · rintro _ rfl x hne
      exact Memory.read_write_other s.mem (writeAddr s) x d hne
    · simp [hpush, hroom] at hnone

/-- Settles O33: either a result recorded, or a byte popped, and then the shift. -/
theorem readSideFrame : Obligations.ReadSideFrame := by
  intro i s t hi h
  have hslot : i.slot = .read := by rcases hi with rfl | rfl <;> rfl
  obtain ⟨w, rfl⟩ := exists_readOp hslot
  rcases exec_readOp_next h with ⟨r, -, rfl, -⟩ | ⟨b, hpop, hbyte, -, rfl⟩
  · simp
  · refine ⟨by simp, fun hnone => ?_, by simp⟩
    simp [hpop, hbyte] at hnone

/-! ### The two clock domains (R25, R119) -/

/-- An `EdgeP` writes nothing of the `clk_c` domain: the write side's frame, or the held block. -/
theorem edgeP_frame {e : EdgeIn} {s t : State} {w : BitVec 9} (hw : e.word = .p w) (h : applyEdge e s = .next t) :
    t.q = s.q ∧ t.db_cnt = s.db_cnt ∧ t.rbin = s.rbin ∧ t.rgray = s.rgray ∧ t.rq1_wgray = s.rq1_wgray ∧
    t.rq2_wgray = s.rq2_wgray ∧ t.Rt = s.Rt ∧ t.evt = s.evt ∧ t.rd = s.rd ∧ t.cfg = s.cfg ∧ t.rst = s.rst := by
  cases hr : s.rst with
  | true =>
    rw [edge_held hr (by simp [edgeIsR, hw]) h]
    simp [hr]
  | false =>
    rcases exec_writeOp_next (edgeP_next hw hr h) with rfl | ⟨d, -, -, rfl⟩ <;> simp [hr]

/-- An `EdgeC` writes nothing of the `clk_p` domain: both slots' frames, or the held block. -/
theorem edgeC_frame {e : EdgeIn} {s t : State} {w : BitVec 4} (hw : e.word = .c w) (h : applyEdge e s = .next t) :
    t.mem = s.mem ∧ t.wbin = s.wbin ∧ t.wgray = s.wgray ∧ t.wq1_rgray = s.wq1_rgray ∧ t.wq2_rgray = s.wq2_rgray ∧
    t.Wt = s.Wt ∧ t.cfg = s.cfg ∧ t.rst = s.rst := by
  cases hr : s.rst with
  | true =>
    rw [edge_held hr (by simp [edgeIsR, hw]) h]
    simp [hr]
  | false =>
    obtain ⟨u, hu, ht⟩ := edgeC_next hw hr h
    obtain ⟨q, n, ev, rfl, -⟩ := exec_qdecOp_next hu
    rcases exec_readOp_next ht with ⟨r, -, rfl, -⟩ | ⟨b, -, -, -, rfl⟩ <;> simp [hr]

theorem edgeIsP_iff (e : EdgeIn) : edgeIsP e = true ↔ ∃ w, e.word = .p w := by
  cases hw : e.word <;> simp [edgeIsP, hw]

theorem edgeIsC_iff (e : EdgeIn) : edgeIsC e = true ↔ ∃ w, e.word = .c w := by
  cases hw : e.word <;> simp [edgeIsC, hw]

/-- Settles O56: the frames of the two clock edges. -/
theorem domainsWriteOnlyTheirOwn : Obligations.DomainsWriteOnlyTheirOwn := by
  refine fun e s t h => ⟨fun hp => ?_, fun hc => ?_⟩
  · obtain ⟨w, hw⟩ := (edgeIsP_iff e).1 hp
    exact edgeP_frame hw h
  · obtain ⟨w, hw⟩ := (edgeIsC_iff e).1 hc
    exact edgeC_frame hw h

/-! ### The parameters (R20) -/

theorem applyEdge_cfg {e : EdgeIn} {s t : State} (h : applyEdge e s = .next t) : t.cfg = s.cfg := by
  cases hw : e.word with
  | c w =>
    obtain ⟨-, -, -, -, -, -, hcfg, -⟩ := edgeC_frame hw h
    exact hcfg
  | p w =>
    obtain ⟨-, -, -, -, -, -, -, -, -, hcfg, -⟩ := edgeP_frame hw h
    exact hcfg
  | r w =>
    rw [applyEdge, hw] at h
    rcases wordR_cases w with rfl | rfl <;>
    · cases h
      simp

/-- Settles O7: the event a step runs keeps the parameters, and so does taking it from the list. -/
theorem parametersNeverChange : Obligations.ParametersNeverChange := by
  intro s t h
  obtain ⟨-, hedge⟩ := step_next h
  rw [applyEdge_cfg hedge, State.takeEdge_cfg]

/-! ### Writers of `q` (R12) -/

/-- An event that changes `q` is RESET, or an `EdgeC` whose QSTEP found the gate open. -/
theorem applyEdge_q_ne {e : EdgeIn} {s t : State} (h : applyEdge e s = .next t) (hne : t.q ≠ s.q) :
    e.word = .r 1#1 ∨
    ∃ a b, evaluates a b e = true ∧ t.q = inputState a b ∧ s.db_cnt = 0 ∧ t.db_cnt = s.cfg.W - 1 ∧ s.rst = false := by
  rcases applyEdge_next h with ⟨w, hw, hr, rfl⟩ | ⟨w, hw, hr, rfl⟩ | ⟨w, u, hw, hr, hu, ht⟩ | ⟨w, hw, hr, ht⟩ |
    ⟨hw, -⟩ | ⟨hw, rfl⟩
  · simp at hne
  · simp at hne
  · obtain ⟨-, hq, hcnt, -, -⟩ := (decoderPart_eq_iff t u).1 (exec_readOp_decoderPart w u t ht)
    obtain ⟨q, n, ev, rfl, rfl | ⟨a, b, hop, rfl, hgate, rfl⟩⟩ := exec_qdecOp_next hu
    · exact absurd hq hne
    · exact .inr ⟨a, b, by simp [evaluates, hw, hop], hq, hgate, hcnt, hr⟩
  · obtain ⟨hq, -⟩ := edgeP_frame hw h
    exact absurd hq hne
  · exact .inl hw
  · simp at hne

/-- Settles O21: the event a step runs is the only writer. -/
theorem onlyAcceptedTransitionsWriteQ : Obligations.OnlyAcceptedTransitionsWriteQ := by
  intro s t h hne
  obtain ⟨-, hedge⟩ := step_next h
  have hcases := applyEdge_q_ne hedge (by simpa using hne)
  simpa [inputState] using hcases

/-! ### Listed edges (R11) -/

/-- No operation reads or writes the list of edges to come. -/
theorem exec_setPending {i : Instr} {s t : State} (es : List EdgeIn) (h : exec i s = .next t) :
    exec i (s.setPending es) = .next (t.setPending es) := by
  cases i with
  | reset | qnop | rnop | wnop => cases h; rfl
  | qstep a b =>
    by_cases hk : inputState a b = s.q ∨ s.db_cnt ≠ 0
    · rw [exec_qstep_kept s a b hk] at h
      cases h
      exact exec_qstep_kept (s.setPending es) a b hk
    · obtain ⟨hc, hg⟩ := not_or.1 hk
      rw [exec_qstep_accepted s a b hc (not_not.1 hg)] at h
      cases h
      exact exec_qstep_accepted (s.setPending es) a b hc (not_not.1 hg)
  | pop =>
    rcases exec_pop_next h with ⟨he, rfl⟩ | ⟨b, he, hb, rfl⟩
    · exact exec_pop_empty (s.setPending es) he
    · exact exec_pop_byte (s.setPending es) b he hb
  | push d =>
    cases hf : wfull s with
    | true =>
      rw [exec_push_dropped s d hf] at h
      cases h
      exact exec_push_dropped (s.setPending es) d hf
    | false =>
      rw [exec_push_accepted s d hf] at h
      cases h
      exact exec_push_accepted (s.setPending es) d hf

/-- No event does either. -/
theorem applyEdge_setPending {e : EdgeIn} {s t : State} (es : List EdgeIn) (h : applyEdge e s = .next t) :
    applyEdge e (s.setPending es) = .next (t.setPending es) := by
  rcases applyEdge_next h with ⟨w, hw, hr, rfl⟩ | ⟨w, hw, hr, rfl⟩ | ⟨w, u, hw, hr, hu, ht⟩ | ⟨w, hw, hr, ht⟩ |
    ⟨hw, rfl⟩ | ⟨hw, rfl⟩ <;> rw [applyEdge, hw]
  · exact applyWord_c_held w _ hr
  · exact applyWord_p_held w _ hr
  · rw [applyWord_c w ((s.setPending es).setDraw e.stale) hr, andThen_next]
    exact ⟨u.setPending es, exec_setPending es hu, exec_setPending es ht⟩
  · rw [applyWord_p w ((s.setPending es).setDraw e.stale) hr]
    exact exec_setPending es ht
  · exact applyWord_reset _
  · exact applyWord_release _

/-- A step takes the first listed edge off the list and runs it. -/
theorem step_listed {e : EdgeIn} {s t : State} (es : List EdgeIn) (hv : s.cfg.valid = true)
    (h : applyEdge e s = .next t) : step (s.setPending (e :: es)) = .next (t.setPending es) := by
  obtain ⟨hnext, htake⟩ := State.takeEdge_cons (s.setPending (e :: es)) e es rfl
  rw [step_eq (s.setPending (e :: es)) hv, hnext, htake]
  exact applyEdge_setPending (s := s) es h

@[simp] theorem Run.record_s (r : Run) (e : EdgeIn) (t : State) : (r.record e t).s = t := by
  unfold Run.record
  cases e.word with
  | c w => dsimp only; split <;> rfl
  | p w => dsimp only; split <;> rfl
  | r w => dsimp only; split <;> rfl

theorem Run.edge_some {r r' : Run} {e : EdgeIn} (h : r.edge e = some r') :
    applyEdge e r.s = .next r'.s ∧ r' = r.record e r'.s := by
  cases ht : applyEdge e r.s with
  | next t =>
    obtain rfl : r.record e t = r' := by simpa [Run.edge, ht] using h
    simp
  | fault _ | refused _ => simp [Run.edge, ht] at h

theorem Run.edges_cons {r r' : Run} {e : EdgeIn} {es : List EdgeIn} :
    Run.edges (e :: es) r = some r' ↔ ∃ r1, r.edge e = some r1 ∧ Run.edges es r1 = some r' := by
  rw [Run.edges]
  cases r.edge e <;> simp

/-- A run from any record, as steps of the machine. -/
theorem steps_of_edges {es : List EdgeIn} {r r' : Run} (rest : List EdgeIn) (hv : r.s.cfg.valid = true)
    (h : Run.edges es r = some r') : steps es.length (r.s.setPending (es ++ rest)) = .next (r'.s.setPending rest) := by
  induction es generalizing r with
  | nil => cases h; rfl
  | cons e es ih =>
    obtain ⟨r1, hedge, hrun⟩ := Run.edges_cons.1 h
    obtain ⟨hnext, -⟩ := Run.edge_some hedge
    have hv1 : r1.s.cfg.valid = true := by rw [applyEdge_cfg hnext, hv]
    calc steps (es.length + 1) (r.s.setPending (e :: (es ++ rest)))
      _ = andThen (step (r.s.setPending (e :: (es ++ rest)))) (steps es.length) := rfl
      _ = steps es.length (r1.s.setPending (es ++ rest)) := by rw [step_listed _ hv hnext, andThen_of_next]
      _ = .next (r'.s.setPending rest) := ih hv1 hrun

/-- Settles O5: a run from a fresh record. -/
theorem listedEdgesRunInOrder : Obligations.ListedEdgesRunInOrder :=
  fun _ rest _ _ hv h => steps_of_edges rest hv h

/-! ### The state after reset (R26) -/

/-- Settles O9: every clause reads a field of `resetWith`. -/
theorem resetValues : Obligations.ResetValues :=
  ⟨rfl, fun _ => ⟨rfl, rfl, rfl, fun _ => rfl, rfl, rfl, rfl, rfl, rfl, rfl, rfl, rfl, rfl, rfl, rfl, rfl, rfl,
    fun _ _ => rfl⟩⟩

/-- A zeroed pointer and a zeroed Gray copy of the other one lie no distance apart. -/
@[simp] theorem subMod_zero_ungray_zero (n : Nat) : subMod n 0 (ungray n 0) = 0 := by
  have hzero : ungray n 0 = 0 := ungray_gray (Nat.two_pow_pos n)
  rw [hzero]
  simp [subMod]

/-- Settles O10: the pointers are no distance apart, and a consistent depth is not 0. -/
theorem flagsAfterReset : Obligations.FlagsAfterReset := by
  intro c h
  obtain ⟨-, -, hdepth, -⟩ := consistent_parts h
  have hroom : wfull (State.resetWith c) = false := by
    have hne : 0 ≠ c.fifo_depth := by omega
    simpa [wfull, State.resetWith] using hne
  exact ⟨rfl, hroom, rfl⟩

/-- After reset no stage of either synchroniser lies behind its pointer. -/
theorem lags_resetWith (c : Config) :
    wLag2 (State.resetWith c) = 0 ∧ wLag1 (State.resetWith c) = 0 ∧ rLag2 (State.resetWith c) = 0 ∧
    rLag1 (State.resetWith c) = 0 := by
  simp [wLag2, wLag1, rLag2, rLag1, State.resetWith]

/-- After reset every view of a total is 0. -/
theorem views_resetWith (c : Config) :
    viewWs (State.resetWith c) = 0 ∧ viewWs1 (State.resetWith c) = 0 ∧ viewRs (State.resetWith c) = 0 ∧
    viewRs1 (State.resetWith c) = 0 :=
  ⟨Nat.zero_sub _, Nat.zero_sub _, Nat.zero_sub _, Nat.zero_sub _⟩

/-- Settles O40: every register, lag and view is 0, no cell is listed, and the window of a consistent configuration is
not 0. -/
theorem invariantHoldsAfterReset : Obligations.InvariantHoldsAfterReset := by
  intro c h
  obtain ⟨-, hW, -, -⟩ := consistent_parts h
  have hpow : 0 < 2 ^ c.PW := Nat.two_pow_pos c.PW
  obtain ⟨hwLag2, hwLag1, hrLag2, hrLag1⟩ := lags_resetWith c
  obtain ⟨hWs, hWs1, hRs, hRs1⟩ := views_resetWith c
  exact {
    cfg_consistent := h
    db_cnt_lt := hW
    mem_wf := rfl
    mem_range := List.forall_mem_nil _
    wbin_eq := (Nat.zero_mod _).symm
    wgray_eq := gray_zero.symm
    rbin_eq := (Nat.zero_mod _).symm
    rgray_eq := gray_zero.symm
    wq1_lt := hpow
    wq2_lt := hpow
    rq1_lt := hpow
    rq2_lt := hpow
    wLag2_le := hwLag2.le
    wLag1_le := hwLag1.le
    rLag2_le := hrLag2.le
    rLag1_le := hrLag1.le
    rs_le_rs1 := (hRs.trans hRs1.symm).le
    rs1_le_rt := hRs1.le
    rt_le_ws := hWs.ge
    ws_le_ws1 := (hWs.trans hWs1.symm).le
    ws1_le_wt := hWs1.le
    wt_le := Nat.zero_le _
    w_fresh_lt := nofun
    r_fresh_lt := nofun
    written := nofun
    held := nofun }

end Sys2Proof.Machine
end

section
/-! PROOFS. The family of 20_memory.md: the totals of R40 behind the queue's registers, the invariant, and what follows
from it for the bytes the queue holds and for the time they take to cross. -/

namespace Sys2Proof.Machine

/-! ### Arithmetic of pointers (R7, R38) -/

theorem subMod_add (n a b : Nat) : subMod n a b + b ≡ a [MOD 2 ^ n] := by
  have hb : b % 2 ^ n ≤ 2 ^ n := (Nat.mod_lt b (Nat.two_pow_pos n)).le
  calc subMod n a b + b
    _ ≡ a + (2 ^ n - b % 2 ^ n) + b % 2 ^ n [MOD 2 ^ n] := (Nat.mod_modEq _ _).add (Nat.mod_modEq b _).symm
    _ = a + 2 ^ n := by omega
    _ ≡ a [MOD 2 ^ n] := Nat.add_modEq_right

/-- The pointer a given distance behind that of a total. -/
theorem subMod_total {n a b : Nat} (h : b ≤ a) : subMod n (a % 2 ^ n) b = (a - b) % 2 ^ n := by
  have hback : subMod n (a % 2 ^ n) b + b ≡ (a - b) + b [MOD 2 ^ n] := by
    rw [Nat.sub_add_cancel h]
    exact (subMod_add n (a % 2 ^ n) b).trans (Nat.mod_modEq a _)
  rw [← hback.add_right_cancel' b, Nat.mod_eq_of_lt (subMod_lt n _ b)]

/-- A pointer is that of the total as far back as the pointer lies behind. -/
theorem sub_subMod_mod {n a p : Nat} (hp : p < 2 ^ n) (h : subMod n (a % 2 ^ n) p ≤ a) :
    (a - subMod n (a % 2 ^ n) p) % 2 ^ n = p := by
  have hback : (a - subMod n (a % 2 ^ n) p) + subMod n (a % 2 ^ n) p ≡ p + subMod n (a % 2 ^ n) p [MOD 2 ^ n] := by
    rw [Nat.sub_add_cancel h, Nat.add_comm p]
    exact ((subMod_add n (a % 2 ^ n) p).trans (Nat.mod_modEq a _)).symm
  rw [hback.add_right_cancel' _, Nat.mod_eq_of_lt hp]

/-- Counts less than a full turn apart stand at different places. -/
theorem mod_ne_of_lt {m a b : Nat} (hab : a < b) (hb : b < a + m) : a % m ≠ b % m := by
  intro h
  have hzero : (b - a) % m = 0 := Nat.sub_mod_eq_zero_of_mod_eq h.symm
  rw [Nat.mod_eq_of_lt (by omega)] at hzero
  omega

theorem two_pow_PW {c : Config} (h : c.consistent = true) : 2 ^ c.PW = 2 * c.fifo_depth := by
  obtain ⟨-, -, -, hdepth⟩ := consistent_parts h
  rw [Config.PW, Nat.pow_succ', hdepth]

/-! ### The totals behind the registers (R40)

`Counted s rs rs1 ws ws1` says of every register of the queue which total it stands for: the producer's two stages for
`rs` and `rs1`, the consumer's for `ws` and `ws1`. It determines the four views, it is the queue's part of the
invariant, and every edge moves its totals in a simple way. -/

structure Counted (s : State) (rs rs1 ws ws1 : Nat) : Prop where
  cfg_consistent : s.cfg.consistent = true
  mem_wf : s.mem.wf = true
  mem_range : ∀ c ∈ s.mem, c.1 < s.cfg.fifo_depth
  written : ∀ k < s.Wt, s.Rt ≤ k → (s.mem.read (k % s.cfg.fifo_depth)).isSome = true
  wbin_eq : s.wbin = s.Wt % 2 ^ s.cfg.PW
  wgray_eq : s.wgray = gray (s.Wt % 2 ^ s.cfg.PW)
  rbin_eq : s.rbin = s.Rt % 2 ^ s.cfg.PW
  rgray_eq : s.rgray = gray (s.Rt % 2 ^ s.cfg.PW)
  wq2_eq : s.wq2_rgray = gray (rs % 2 ^ s.cfg.PW)
  wq1_eq : s.wq1_rgray = gray (rs1 % 2 ^ s.cfg.PW)
  rq2_eq : s.rq2_wgray = gray (ws % 2 ^ s.cfg.PW)
  rq1_eq : s.rq1_wgray = gray (ws1 % 2 ^ s.cfg.PW)
  rs_le : rs ≤ rs1
  rs1_le : rs1 ≤ s.Rt
  rt_le : s.Rt ≤ ws
  ws_le : ws ≤ ws1
  ws1_le : ws1 ≤ s.Wt
  wt_le : s.Wt ≤ rs + s.cfg.fifo_depth
  w_fresh_lt : s.w_fresh = true → ws1 < s.Wt
  r_fresh_lt : s.r_fresh = true → rs1 < s.Rt

/-- The distance of a stage that holds the Gray code of an earlier total. -/
theorem lag_of_gray {n total v : Nat} (hv : v ≤ total) (hd : total - v < 2 ^ n) :
    subMod n (total % 2 ^ n) (ungray n (gray (v % 2 ^ n))) = total - v := by
  rw [ungray_gray (Nat.mod_lt _ (Nat.two_pow_pos n)), subMod_counts n total v hv hd]

/-- The total a stage holds, from its distance. -/
theorem gray_of_lag {n total g : Nat} (hg : g < 2 ^ n) (h : subMod n (total % 2 ^ n) (ungray n g) ≤ total) :
    g = gray ((total - subMod n (total % 2 ^ n) (ungray n g)) % 2 ^ n) := by
  rw [sub_subMod_mod (ungray_lt n g) h, gray_ungray hg]

section
variable {s : State} {rs rs1 ws ws1 : Nat}

/-- The order of R40, and the least depth. -/
theorem Counted.order (h : Counted s rs rs1 ws ws1) :
    rs ≤ rs1 ∧ rs1 ≤ s.Rt ∧ s.Rt ≤ ws ∧ ws ≤ ws1 ∧ ws1 ≤ s.Wt ∧ s.Wt ≤ rs + s.cfg.fifo_depth ∧
    2 ≤ s.cfg.fifo_depth := by
  obtain ⟨-, -, hdepth, -⟩ := consistent_parts h.cfg_consistent
  exact ⟨h.rs_le, h.rs1_le, h.rt_le, h.ws_le, h.ws1_le, h.wt_le, hdepth⟩

/-- The lags are the distances of the totals. -/
theorem Counted.lags (h : Counted s rs rs1 ws ws1) :
    wLag2 s = s.Wt - ws ∧ wLag1 s = s.Wt - ws1 ∧ rLag2 s = s.Rt - rs ∧ rLag1 s = s.Rt - rs1 := by
  have hpow := two_pow_PW h.cfg_consistent
  obtain ⟨hrs, hrs1, hrt, hws, hws1, hwt, hdepth⟩ := h.order
  refine ⟨?_, ?_, ?_, ?_⟩
  · rw [wLag2, h.wbin_eq, h.rq2_eq, lag_of_gray (by omega) (by omega)]
  · rw [wLag1, h.wbin_eq, h.rq1_eq, lag_of_gray (by omega) (by omega)]
  · rw [rLag2, h.rbin_eq, h.wq2_eq, lag_of_gray (by omega) (by omega)]
  · rw [rLag1, h.rbin_eq, h.wq1_eq, lag_of_gray (by omega) (by omega)]

/-- The views are the totals. -/
theorem Counted.views (h : Counted s rs rs1 ws ws1) :
    viewRs s = rs ∧ viewRs1 s = rs1 ∧ viewWs s = ws ∧ viewWs1 s = ws1 := by
  obtain ⟨hw2, hw1, hr2, hr1⟩ := h.lags
  obtain ⟨hrs, hrs1, hrt, hws, hws1, -, -⟩ := h.order
  rw [viewRs, viewRs1, viewWs, viewWs1, hw2, hw1, hr2, hr1]
  omega

/-- The queue's part of the invariant, the totals being the views. -/
theorem Inv.counted (h : Inv s) : Counted s (viewRs s) (viewRs1 s) (viewWs s) (viewWs1 s) := by
  have hw2 := h.wLag2_le; have hw1 := h.wLag1_le; have hr2 := h.rLag2_le; have hr1 := h.rLag1_le
  rw [wLag2, h.wbin_eq] at hw2
  rw [wLag1, h.wbin_eq] at hw1
  rw [rLag2, h.rbin_eq] at hr2
  rw [rLag1, h.rbin_eq] at hr1
  exact { h with
    wgray_eq := h.wbin_eq ▸ h.wgray_eq
    rgray_eq := h.rbin_eq ▸ h.rgray_eq
    wq2_eq := by rw [viewRs, rLag2, h.rbin_eq]; exact gray_of_lag h.wq2_lt hr2
    wq1_eq := by rw [viewRs1, rLag1, h.rbin_eq]; exact gray_of_lag h.wq1_lt hr1
    rq2_eq := by rw [viewWs, wLag2, h.wbin_eq]; exact gray_of_lag h.rq2_lt hw2
    rq1_eq := by rw [viewWs1, wLag1, h.wbin_eq]; exact gray_of_lag h.rq1_lt hw1
    rs_le := h.rs_le_rs1
    rs1_le := h.rs1_le_rt
    rt_le := h.rt_le_ws
    ws_le := h.ws_le_ws1
    ws1_le := h.ws1_le_wt }

/-- The invariant from its parts: the queue, the timer and the reset pin. -/
theorem Counted.inv (h : Counted s rs rs1 ws ws1) (hcnt : s.db_cnt < s.cfg.W) (hheld : s.rst = true → s = s.toReset) :
    Inv s := by
  obtain ⟨hw2, hw1, hr2, hr1⟩ := h.lags
  obtain ⟨hrs, hrs1, hws, hws1⟩ := h.views
  have hgray : ∀ k, gray (k % 2 ^ s.cfg.PW) < 2 ^ s.cfg.PW := fun k => gray_lt (Nat.mod_lt k (Nat.two_pow_pos _))
  subst hrs hrs1 hws hws1
  exact { h with
    db_cnt_lt := hcnt
    held := hheld
    wgray_eq := h.wbin_eq ▸ h.wgray_eq
    rgray_eq := h.rbin_eq ▸ h.rgray_eq
    wq1_lt := h.wq1_eq ▸ hgray _
    wq2_lt := h.wq2_eq ▸ hgray _
    rq1_lt := h.rq1_eq ▸ hgray _
    rq2_lt := h.rq2_eq ▸ hgray _
    wLag2_le := hw2 ▸ Nat.sub_le _ _
    wLag1_le := hw1 ▸ Nat.sub_le _ _
    rLag2_le := hr2 ▸ Nat.sub_le _ _
    rLag1_le := hr1 ▸ Nat.sub_le _ _
    rs_le_rs1 := h.rs_le
    rs1_le_rt := h.rs1_le
    rt_le_ws := h.rt_le
    ws_le_ws1 := h.ws_le
    ws1_le_wt := h.ws1_le }

/-! ### The flags and the addresses in terms of the totals -/

theorem Counted.wfull_iff (h : Counted s rs rs1 ws ws1) : wfull s = true ↔ s.Wt = rs + s.cfg.fifo_depth := by
  have hpow := two_pow_PW h.cfg_consistent
  obtain ⟨hrs, hrs1, hrt, hws, hws1, hwt, hdepth⟩ := h.order
  rw [Machine.wfull_iff, h.wbin_eq, h.wq2_eq, lag_of_gray (by omega) (by omega)]
  omega

theorem Counted.rempty_iff (h : Counted s rs rs1 ws ws1) : rempty s = true ↔ s.Rt = ws := by
  have hpow := two_pow_PW h.cfg_consistent
  obtain ⟨hrs, hrs1, hrt, hws, hws1, hwt, hdepth⟩ := h.order
  rw [Machine.rempty_iff, h.rgray_eq, h.rq2_eq]
  refine ⟨fun he => ?_, fun he => by rw [he]⟩
  by_contra hne
  have hmod := congrArg (ungray s.cfg.PW) he
  rw [ungray_gray (Nat.mod_lt _ (Nat.two_pow_pos _)), ungray_gray (Nat.mod_lt _ (Nat.two_pow_pos _))] at hmod
  exact mod_ne_of_lt (by omega) (by omega) hmod

theorem Counted.writeAddr_eq (h : Counted s rs rs1 ws ws1) : writeAddr s = s.Wt % s.cfg.fifo_depth := by
  rw [writeAddr, h.wbin_eq, cell_of_count h.cfg_consistent]

theorem Counted.readAddr_eq (h : Counted s rs rs1 ws ws1) : readAddr s = s.Rt % s.cfg.fifo_depth := by
  rw [readAddr, h.rbin_eq, cell_of_count h.cfg_consistent]

/-- The consumer's next cell holds a byte. -/
theorem Counted.read_some (h : Counted s rs rs1 ws ws1) (he : rempty s = false) :
    ∃ b, s.mem.read (s.Rt % s.cfg.fifo_depth) = some b := by
  have hne : s.Rt ≠ ws := fun heq => by simp [h.rempty_iff.2 heq] at he
  obtain ⟨-, -, hrt, hws, hws1, -, -⟩ := h.order
  exact Option.isSome_iff_exists.1 (h.written s.Rt (by omega) le_rfl)

/-! ### What each update does to the totals -/

theorem Counted.setDraw (h : Counted s rs rs1 ws ws1) (d : Bool) : Counted (s.setDraw d) rs rs1 ws ws1 := { h with }

theorem Counted.setRst (h : Counted s rs rs1 ws ws1) (l : Bool) : Counted (s.setRst l) rs rs1 ws ws1 := { h with }

theorem Counted.setQdec (h : Counted s rs rs1 ws ws1) (q : BitVec 2) (n : Nat) (e : Option Message) :
    Counted (s.setQdec q n e) rs rs1 ws ws1 := { h with }

theorem Counted.setRd (h : Counted s rs rs1 ws ws1) (r : ReadResult) : Counted (s.setRd r) rs rs1 ws ws1 := { h with }

/-- RESET zeroes all totals; the storage keeps its form. -/
theorem Counted.toReset (h : Counted s rs rs1 ws ws1) : Counted s.toReset 0 0 0 0 where
  cfg_consistent := h.cfg_consistent
  mem_wf := h.mem_wf
  mem_range := h.mem_range
  written := nofun
  wbin_eq := (Nat.zero_mod _).symm
  wgray_eq := (congrArg gray (Nat.zero_mod _)).symm
  rbin_eq := (Nat.zero_mod _).symm
  rgray_eq := (congrArg gray (Nat.zero_mod _)).symm
  wq2_eq := (congrArg gray (Nat.zero_mod _)).symm
  wq1_eq := (congrArg gray (Nat.zero_mod _)).symm
  rq2_eq := (congrArg gray (Nat.zero_mod _)).symm
  rq1_eq := (congrArg gray (Nat.zero_mod _)).symm
  rs_le := le_rfl
  rs1_le := le_rfl
  rt_le := le_rfl
  ws_le := le_rfl
  ws1_le := le_rfl
  wt_le := Nat.zero_le _
  w_fresh_lt := nofun
  r_fresh_lt := nofun

/-- A byte stored where the producer sees room. -/
theorem Counted.setWrite (h : Counted s rs rs1 ws ws1) (hroom : wfull s = false) (d : Byte) :
    Counted (s.setWrite (s.mem.write (writeAddr s) d) (incMod s.cfg.PW s.wbin)) rs rs1 ws ws1 := by
  have hlt : s.Wt < rs + s.cfg.fifo_depth :=
    lt_of_le_of_ne h.wt_le fun heq => by simp [h.wfull_iff.2 heq] at hroom
  obtain ⟨hrs, hrs1, -, -, hws1, -, hdepth⟩ := h.order
  have hinc : incMod s.cfg.PW s.wbin = (s.Wt + 1) % 2 ^ s.cfg.PW := by rw [h.wbin_eq, incMod_count]
  have hwritten : ∀ k < s.Wt + 1, s.Rt ≤ k →
      ((s.mem.write (writeAddr s) d).read (k % s.cfg.fifo_depth)).isSome = true := by
    intro k hk hrt
    rw [h.writeAddr_eq]
    rcases Nat.lt_succ_iff_lt_or_eq.1 hk with hk | rfl
    · rw [Memory.read_write_other _ _ _ _ (mod_ne_of_lt hk (by omega))]
      exact h.written k hk hrt
    · simp
  exact { h with
    mem_wf := Memory.write_wf _ _ _ h.mem_wf
    mem_range := Memory.write_range _ _ _ _ h.mem_range (by rw [h.writeAddr_eq]; exact Nat.mod_lt _ (by omega))
    written := hwritten
    wbin_eq := hinc
    wgray_eq := congrArg gray hinc
    ws1_le := Nat.le_succ_of_le hws1
    wt_le := hlt
    w_fresh_lt := fun _ => Nat.lt_succ_of_le hws1 }

/-- A byte taken where the consumer sees one. -/
theorem Counted.setRead (h : Counted s rs rs1 ws ws1) (hbyte : rempty s = false) :
    Counted (s.setRead (incMod s.cfg.PW s.rbin)) rs rs1 ws ws1 := by
  have hlt : s.Rt < ws := lt_of_le_of_ne h.rt_le fun heq => by simp [h.rempty_iff.2 heq] at hbyte
  have hinc : incMod s.cfg.PW s.rbin = (s.Rt + 1) % 2 ^ s.cfg.PW := by rw [h.rbin_eq, incMod_count]
  exact { h with
    written := fun k hk hrt => h.written k hk (Nat.le_of_succ_le hrt)
    rbin_eq := hinc
    rgray_eq := congrArg gray hinc
    rs1_le := Nat.le_succ_of_le h.rs1_le
    rt_le := hlt
    r_fresh_lt := fun _ => Nat.lt_succ_of_le h.rs1_le }

end

/-- The least total the next capture of a pointer can take: the one before the latest change where that is a candidate
(R98). -/
def leastW (s : State) : Nat := s.Wt - s.w_fresh.toNat
def leastR (s : State) : Nat := s.Rt - s.r_fresh.toNat

section
variable {s : State} {rs rs1 ws ws1 : Nat}

theorem Counted.ws1_le_leastW (h : Counted s rs rs1 ws ws1) : ws1 ≤ leastW s := by
  unfold leastW
  cases hf : s.w_fresh with
  | true => exact Nat.le_pred_of_lt (h.w_fresh_lt hf)
  | false => exact h.ws1_le

theorem Counted.rs1_le_leastR (h : Counted s rs rs1 ws ws1) : rs1 ≤ leastR s := by
  unfold leastR
  cases hf : s.r_fresh with
  | true => exact Nat.le_pred_of_lt (h.r_fresh_lt hf)
  | false => exact h.rs1_le

theorem Counted.capW_eq (h : Counted s rs rs1 ws ws1) :
    ∃ v, leastW s ≤ v ∧ v ≤ s.Wt ∧ capW s = gray (v % 2 ^ s.cfg.PW) := by
  rcases capW_cases s with hcap | ⟨hf, -, hcap⟩
  · exact ⟨s.Wt, Nat.sub_le _ _, le_rfl, hcap.trans h.wgray_eq⟩
  · have hpos : 1 ≤ s.Wt := by have := h.w_fresh_lt hf; omega
    refine ⟨s.Wt - 1, by simp [leastW, hf], Nat.sub_le _ _, ?_⟩
    rw [hcap, h.wbin_eq, subMod_total hpos]

theorem Counted.capR_eq (h : Counted s rs rs1 ws ws1) :
    ∃ v, leastR s ≤ v ∧ v ≤ s.Rt ∧ capR s = gray (v % 2 ^ s.cfg.PW) := by
  rcases capR_cases s with hcap | ⟨hf, -, hcap⟩
  · exact ⟨s.Rt, Nat.sub_le _ _, le_rfl, hcap.trans h.rgray_eq⟩
  · have hpos : 1 ≤ s.Rt := by have := h.r_fresh_lt hf; omega
    refine ⟨s.Rt - 1, by simp [leastR, hf], Nat.sub_le _ _, ?_⟩
    rw [hcap, h.rbin_eq, subMod_total hpos]

/-- The shift of an `EdgeP` moves the producer's stages on by one and captures a total no lower than the least. -/
theorem Counted.shiftP (h : Counted s rs rs1 ws ws1) : ∃ v, leastR s ≤ v ∧ Counted s.shiftP rs1 v ws ws1 := by
  obtain ⟨v, hleast, hle, hcap⟩ := h.capR_eq
  exact ⟨v, hleast, { h with
    wq2_eq := h.wq1_eq
    wq1_eq := hcap
    rs_le := h.rs1_le_leastR.trans hleast
    rs1_le := hle
    wt_le := h.wt_le.trans (Nat.add_le_add_right h.rs_le _)
    r_fresh_lt := nofun }⟩

/-- The shift of an `EdgeC` does the same for the consumer's stages. -/
theorem Counted.shiftC (h : Counted s rs rs1 ws ws1) : ∃ v, leastW s ≤ v ∧ Counted s.shiftC rs rs1 ws1 v := by
  obtain ⟨v, hleast, hle, hcap⟩ := h.capW_eq
  exact ⟨v, hleast, { h with
    rq2_eq := h.rq1_eq
    rq1_eq := hcap
    rt_le := h.rt_le.trans h.ws_le
    ws_le := h.ws1_le_leastW.trans hleast
    ws1_le := hle
    w_fresh_lt := nofun }⟩

end

/-! ### The invariant over every event -/

section
variable {e : EdgeIn} {s t : State} {rs rs1 ws ws1 : Nat}

/-- An `EdgeP` moves the producer's stages on. -/
theorem Counted.edgeP (h : Counted s rs rs1 ws ws1) {w : BitVec 9} (hw : e.word = .p w) (hr : s.rst = false)
    (he : applyEdge e s = .next t) : ∃ v, leastR s ≤ v ∧ Counted t rs1 v ws ws1 := by
  rcases exec_writeOp_next (edgeP_next hw hr he) with rfl | ⟨d, -, hroom, rfl⟩
  · exact (h.setDraw e.stale).shiftP
  · exact ((h.setDraw e.stale).setWrite hroom d).shiftP

/-- An `EdgeC` moves the consumer's stages on. -/
theorem Counted.edgeC (h : Counted s rs rs1 ws ws1) {w : BitVec 4} (hw : e.word = .c w) (hr : s.rst = false)
    (he : applyEdge e s = .next t) : ∃ v, leastW s ≤ v ∧ Counted t rs rs1 ws1 v := by
  obtain ⟨u, hu, ht⟩ := edgeC_next hw hr he
  obtain ⟨q, n, ev, rfl, -⟩ := exec_qdecOp_next hu
  have hq := (h.setDraw e.stale).setQdec q n ev
  rcases exec_readOp_next ht with ⟨r, -, rfl, -⟩ | ⟨b, -, hbyte, -, rfl⟩
  · exact (hq.setRd r).shiftC
  · exact ((hq.setRd (.byte b)).setRead hbyte).shiftC

/-- The timer stays within its window: it is loaded with `W - 1` or runs down (R13). -/
theorem exec_qdecOp_db_cnt_lt {w : BitVec 4} (hW : 1 ≤ s.cfg.W) (hcnt : s.db_cnt < s.cfg.W)
    (h : exec (qdecOp w) s = .next t) : t.db_cnt < s.cfg.W := by
  obtain ⟨q, n, ev, hx, hcase⟩ := exec_qdecOp w s
  rw [hx] at h
  cases h
  rw [State.setQdec_db_cnt]
  rcases hcase with ⟨-, hn, -⟩ | ⟨_, _, -, -, -, -, hn, -⟩ <;> omega

theorem edgeC_db_cnt_lt {w : BitVec 4} (h : Inv s) (hw : e.word = .c w) (hr : s.rst = false)
    (he : applyEdge e s = .next t) : t.db_cnt < s.cfg.W := by
  obtain ⟨-, hW, -, -⟩ := consistent_parts h.cfg_consistent
  obtain ⟨u, hu, ht⟩ := edgeC_next hw hr he
  obtain ⟨-, -, hcnt, -⟩ := (decoderPart_eq_iff t u).1 (exec_readOp_decoderPart w u t ht)
  rw [hcnt]
  exact exec_qdecOp_db_cnt_lt (s := s.setDraw e.stale) hW h.db_cnt_lt hu

theorem Inv.setDraw (h : Inv s) (d : Bool) : Inv (s.setDraw d) :=
  { h with held := fun hr => congrArg (fun u : State => u.setDraw d) (h.held hr) }

/-- Every event keeps the invariant. -/
theorem Inv.applyEdge (h : Inv s) (he : applyEdge e s = .next t) : Inv t := by
  have hcfg := applyEdge_cfg he
  rcases applyEdge_next he with ⟨w, -, -, rfl⟩ | ⟨w, -, -, rfl⟩ | ⟨w, u, hw, hr, -, -⟩ | ⟨w, hw, hr, -⟩ |
    ⟨-, rfl⟩ | ⟨-, rfl⟩
  · exact h.setDraw e.stale
  · exact h.setDraw e.stale
  · obtain ⟨v, -, ht⟩ := h.counted.edgeC hw hr he
    obtain ⟨-, -, -, -, -, -, -, hrst⟩ := edgeC_frame hw he
    refine ht.inv ?_ (by simp [hrst, hr])
    rw [hcfg]
    exact edgeC_db_cnt_lt h hw hr he
  · obtain ⟨v, -, ht⟩ := h.counted.edgeP hw hr he
    obtain ⟨-, hcnt, -, -, -, -, -, -, -, -, hrst⟩ := edgeP_frame hw he
    refine ht.inv ?_ (by simp [hrst, hr])
    rw [hcfg, hcnt]
    exact h.db_cnt_lt
  · obtain ⟨-, hW, -, -⟩ := consistent_parts h.cfg_consistent
    exact ((h.counted.setDraw e.stale).setRst true).toReset.inv hW fun _ => rfl
  · exact ((h.counted.setDraw e.stale).setRst false).inv h.db_cnt_lt nofun

/-- Taking the next edge off the list touches nothing the invariant speaks of. -/
theorem Inv.takeEdge (h : Inv s) : Inv s.takeEdge := by
  unfold State.takeEdge
  split
  · rename_i es _
    exact { h with held := fun hr => congrArg (fun u : State => u.setPending es) (h.held hr) }
  · exact { h with held := fun hr => congrArg (fun u : State => u.setEdgeIx (s.edgeIx + 1)) (h.held hr) }

end

/-- Settles O41: a step is an event, and each event keeps the queue's totals, the timer's window and the reset values. -/
theorem everyStepKeepsTheInvariant : Obligations.EveryStepKeepsTheInvariant := by
  intro s t h hstep
  obtain ⟨-, hedge⟩ := step_next hstep
  exact h.takeEdge.applyEdge hedge

/-! ### What one clock edge does to the storage -/

/-- What an `EdgeP` does to the storage and the write total (R92, R93). -/
inductive WriteEffect (w : BitVec 9) (s t : State) : Prop
  | wnop (hop : writeOp w = .wnop) (hmem : t.mem = s.mem) (hWt : t.Wt = s.Wt)
  | dropped (d : Byte) (hop : writeOp w = .push d) (hfull : s.Wt = viewRs s + s.cfg.fifo_depth)
      (hmem : t.mem = s.mem) (hWt : t.Wt = s.Wt)
  | accepted (d : Byte) (hop : writeOp w = .push d) (hroom : s.Wt < viewRs s + s.cfg.fifo_depth)
      (hmem : t.mem = s.mem.write (s.Wt % s.cfg.fifo_depth) d) (hWt : t.Wt = s.Wt + 1)

/-- What an `EdgeC` does to the read total, and the result it gives (R95, R96). -/
inductive ReadEffect (w : BitVec 4) (s t : State) : Prop
  | rnop (hop : readOp w = .rnop) (hRt : t.Rt = s.Rt) (hrd : t.rd = .noCall)
  | empty (hop : readOp w = .pop) (hnone : s.Rt = viewWs s) (hRt : t.Rt = s.Rt) (hrd : t.rd = .empty)
  | byte (b : Byte) (hop : readOp w = .pop) (hsome : s.Rt < viewWs s)
      (hcell : s.mem.read (s.Rt % s.cfg.fifo_depth) = some b) (hRt : t.Rt = s.Rt + 1) (hrd : t.rd = .byte b)

theorem readOp_cases (w : BitVec 4) : readOp w = .pop ∨ readOp w = .rnop := by
  unfold readOp
  split <;> simp

theorem writeOp_cases (w : BitVec 9) : (∃ d, writeOp w = .push d) ∨ writeOp w = .wnop := by
  unfold writeOp
  split <;> simp

section
variable {e : EdgeIn} {s t : State}

theorem Inv.wt_lt_of_room (h : Inv s) (hroom : wfull s = false) : s.Wt < viewRs s + s.cfg.fifo_depth :=
  lt_of_le_of_ne h.wt_le fun heq => by simp [h.counted.wfull_iff.2 heq] at hroom

theorem Inv.rt_lt_of_byte (h : Inv s) (hbyte : rempty s = false) : s.Rt < viewWs s :=
  lt_of_le_of_ne h.rt_le_ws fun heq => by simp [h.counted.rempty_iff.2 heq] at hbyte

theorem edgeP_effect {w : BitVec 9} (h : Inv s) (hw : e.word = .p w) (hr : s.rst = false)
    (he : applyEdge e s = .next t) : WriteEffect w s t := by
  have hx := edgeP_next hw hr he
  have hd := h.setDraw e.stale
  rcases writeOp_cases w with ⟨d, hop⟩ | hop
  · rw [hop] at hx
    cases hf : wfull (s.setDraw e.stale) with
    | true =>
      rw [exec_push_dropped _ d hf] at hx
      cases hx
      exact .dropped d hop (hd.counted.wfull_iff.1 hf) rfl rfl
    | false =>
      rw [exec_push_accepted _ d hf] at hx
      cases hx
      exact .accepted d hop (hd.wt_lt_of_room hf) (congrArg (s.mem.write · d) h.counted.writeAddr_eq) rfl
  · rw [hop, exec_wnop] at hx
    cases hx
    exact .wnop hop rfl rfl

theorem edgeC_effect {w : BitVec 4} (h : Inv s) (hw : e.word = .c w) (hr : s.rst = false)
    (he : applyEdge e s = .next t) : ReadEffect w s t := by
  obtain ⟨u, hu, hx⟩ := edgeC_next hw hr he
  obtain ⟨q, n, ev, rfl, -⟩ := exec_qdecOp_next hu
  rcases readOp_cases w with hop | hop
  · rw [hop] at hx
    rcases exec_pop_next hx with ⟨hempty, rfl⟩ | ⟨b, hbyte, hcell, rfl⟩
    · exact .empty hop (h.counted.rempty_iff.1 hempty) rfl rfl
    · exact .byte b hop (h.rt_lt_of_byte hbyte) (h.counted.readAddr_eq ▸ hcell) rfl rfl
  · rw [hop, exec_rnop] at hx
    cases hx
    exact .rnop hop rfl rfl

/-- No event stops the machine: the only stop is a POP of an unwritten cell. -/
theorem Inv.applyEdge_total (h : Inv s) (e : EdgeIn) : ∃ t, Machine.applyEdge e s = .next t := by
  unfold Machine.applyEdge
  cases hr : s.rst with
  | true =>
    cases e.word with
    | c w => exact ⟨_, applyWord_c_held w _ hr⟩
    | p w => exact ⟨_, applyWord_p_held w _ hr⟩
    | r w => rcases wordR_cases w with rfl | rfl <;> exact ⟨_, rfl⟩
  | false =>
    cases e.word with
    | c w =>
      obtain ⟨q, n, ev, hq, -⟩ := exec_qdecOp w (s.setDraw e.stale)
      rw [applyWord_c w (s.setDraw e.stale) hr, hq, andThen_of_next]
      rcases readOp_cases w with hop | hop <;> rw [hop]
      · cases hf : rempty s with
        | true => exact ⟨_, exec_pop_empty _ hf⟩
        | false =>
          obtain ⟨b, hb⟩ := h.counted.read_some hf
          exact ⟨_, exec_pop_byte _ b hf (h.counted.readAddr_eq ▸ hb)⟩
      · exact ⟨_, exec_rnop _⟩
    | p w =>
      rw [applyWord_p w (s.setDraw e.stale) hr]
      rcases exec_writeOp w (s.setDraw e.stale) with ⟨hx, -⟩ | ⟨d, -, -, hx⟩ <;> exact ⟨_, hx⟩
    | r w => rcases wordR_cases w with rfl | rfl <;> exact ⟨_, rfl⟩

end

theorem exec_pop_unwritten (s : State) (h : rempty s = false) (hb : s.mem.read (readAddr s) = none) :
    exec .pop s = .fault .unwrittenCell := by
  simp [exec, execPop, h, hb]

/-- Settles O30: POP's only two other outcomes are next states. -/
theorem popStopsOnlyOnAnUnwrittenCell : Obligations.PopStopsOnlyOnAnUnwrittenCell := by
  refine fun s => ⟨?_, exec_ne_refused .pop s⟩
  have haddr : s.rbin % 2 ^ s.cfg.AW = readAddr s := rfl
  rw [Ne, ← rempty_iff, haddr]
  cases he : rempty s with
  | true => simp [exec_pop_empty s he]
  | false =>
    cases hb : s.mem.read (readAddr s) with
    | some b => simp [exec_pop_byte s b he hb]
    | none => exact iff_of_true ⟨_, exec_pop_unwritten s he hb⟩ (by simp)

/-- Settles O43: the order is the invariant's, the flags by the totals behind the registers. -/
theorem viewsStayInOrder : Obligations.ViewsStayInOrder := by
  intro s h
  have hwfull := h.counted.wfull_iff
  obtain ⟨hrs, hrs1, hrt, hws, hws1, hwt, hdepth⟩ := h.counted.order
  refine ⟨by omega, hrt, by omega, hwt, by omega, ?_, h.counted.rempty_iff⟩
  rw [hwfull]
  omega

/-- Settles O45: the totals of the two cells are less than a full turn apart. -/
theorem noRaceOnACell : Obligations.NoRaceOnACell := by
  intro s h
  obtain ⟨hrs, hrs1, hrt, hws, hws1, -, hdepth⟩ := h.counted.order
  constructor
  · intro hroom
    have hlt := h.wt_lt_of_room hroom
    refine ⟨by omega, h.counted.writeAddr_eq, fun k hk hview => ?_⟩
    rw [h.counted.writeAddr_eq]
    exact mod_ne_of_lt (by omega) (by omega)
  · intro hbyte
    refine ⟨h.rt_lt_of_byte hbyte, by omega, h.counted.readAddr_eq, ?_⟩
    rw [h.counted.readAddr_eq]
    exact h.counted.read_some hbyte

/-! ### Gray codes of successive values (R38) -/

/-- Going to the next value flips a block of low bits: the trailing ones and the zero above them, or all bits at the
wrap. -/
theorem xor_incMod (n b : Nat) (h : b < 2 ^ n) : ∃ i ≤ n, (0 < n → 0 < i) ∧ b ^^^ incMod n b = 2 ^ i - 1 := by
  induction n generalizing b with
  | zero => exact ⟨0, le_rfl, id, by simp [show b = 0 by omega, incMod]⟩
  | succ n ih =>
    have hpow : 2 ^ (n + 1) = 2 * 2 ^ n := Nat.pow_succ'
    have hhalf := Nat.xor_div_two (a := b) (b := incMod (n + 1) b)
    have hlow := Nat.xor_mod_two_eq (m := b) (n := incMod (n + 1) b)
    rcases Nat.mod_two_eq_zero_or_one b with heven | hodd
    · have hnext : incMod (n + 1) b = b + 1 := Nat.mod_eq_of_lt (by omega)
      rw [hnext, show (b + 1) / 2 = b / 2 by omega, Nat.xor_self] at hhalf
      rw [hnext] at hlow
      exact ⟨1, by omega, fun _ => Nat.one_pos, by rw [hnext]; omega⟩
    · have hnext : incMod (n + 1) b = 2 * incMod n (b / 2) := by
        rw [incMod, incMod, hpow, show b + 1 = 2 * (b / 2 + 1) by omega, Nat.mul_mod_mul_left]
      obtain ⟨i, hi, -, hx⟩ := ih (b / 2) (by omega)
      rw [hnext, Nat.mul_div_cancel_left _ Nat.two_pos, hx] at hhalf
      rw [hnext] at hlow
      have hpowi : 2 ^ (i + 1) = 2 * 2 ^ i := Nat.pow_succ'
      have hpos : 1 ≤ 2 ^ i := Nat.one_le_two_pow
      exact ⟨i + 1, by omega, fun _ => Nat.succ_pos i, by rw [hnext]; omega⟩

theorem gray_xor (a b : Nat) : gray a ^^^ gray b = gray (a ^^^ b) := by
  apply Nat.eq_of_testBit_eq
  intro i
  rw [Nat.testBit_xor, testBit_gray, testBit_gray, testBit_gray, Nat.testBit_xor, Nat.testBit_xor, Bool.xor_assoc,
    Bool.xor_assoc, Bool.xor_left_comm (a.testBit (i + 1))]

/-- The Gray code of a block of ones is its top bit. -/
theorem gray_two_pow_sub_one (i : Nat) : gray (2 ^ (i + 1) - 1) = 2 ^ i := by
  apply Nat.eq_of_testBit_eq
  intro j
  rw [testBit_gray, Nat.testBit_two_pow_sub_one, Nat.testBit_two_pow_sub_one, Nat.testBit_two_pow]
  rcases lt_trichotomy i j with hij | rfl | hij
  · simp [show ¬ j < i + 1 by omega, show ¬ j < i by omega, hij.ne]
  · simp
  · simp [show j < i + 1 by omega, hij, hij.ne']

/-- Settles O36: the two values differ in a block of ones, whose Gray code is one bit. -/
theorem grayStepsOneBit : Obligations.GrayStepsOneBit := by
  intro n b hn hb
  obtain ⟨i, hi, hpos, hx⟩ := xor_incMod n b hb
  obtain ⟨j, rfl⟩ := Nat.exists_eq_succ_of_ne_zero (hpos hn).ne'
  exact ⟨j, hi, by rw [gray_xor, hx, gray_two_pow_sub_one]⟩

/-! ### The stages of a crossing

A total crosses into the other clock domain in three moves of that domain's clock: past the candidates of the draw,
into the first stage, into the second. Both directions are the same four numbers. -/

/-- A total, the least value the next capture of it can take, and what the two stages of the other domain hold. -/
structure Stages where
  total : Nat
  least : Nat
  first : Nat
  second : Nat

def wStages (s : State) : Stages := ⟨s.Wt, leastW s, viewWs1 s, viewWs s⟩
def rStages (s : State) : Stages := ⟨s.Rt, leastR s, viewRs1 s, viewRs s⟩

/-- The values are in order. -/
structure Stages.Ordered (x : Stages) : Prop where
  second_le : x.second ≤ x.first
  first_le : x.first ≤ x.least
  least_le : x.least ≤ x.total

/-- An edge of the receiving clock. -/
structure Stages.Shifts (x y : Stages) : Prop where
  total_eq : y.total = x.total
  least_eq : y.least = y.total
  first_ge : x.least ≤ y.first
  second_eq : y.second = x.first

/-- An edge of the sending clock. -/
structure Stages.Waits (x y : Stages) : Prop where
  total_le : x.total ≤ y.total
  least_le : x.least ≤ y.least
  first_eq : y.first = x.first
  second_eq : y.second = x.second

/-- No value decreases. -/
structure Stages.Le (x y : Stages) : Prop where
  total : x.total ≤ y.total
  first : x.first ≤ y.first
  second : x.second ≤ y.second

theorem Stages.Shifts.le {x y : Stages} (hx : x.Ordered) (h : x.Shifts y) : x.Le y :=
  ⟨h.total_eq.ge, hx.first_le.trans h.first_ge, hx.second_le.trans h.second_eq.ge⟩

theorem Stages.Waits.le {x y : Stages} (h : x.Waits y) : x.Le y := ⟨h.total_le, h.first_eq.ge, h.second_eq.ge⟩

section
variable {e : EdgeIn} {s t : State}

theorem Inv.wStages_ordered (h : Inv s) : (wStages s).Ordered :=
  ⟨h.ws_le_ws1, h.counted.ws1_le_leastW, Nat.sub_le _ _⟩

theorem Inv.rStages_ordered (h : Inv s) : (rStages s).Ordered :=
  ⟨h.rs_le_rs1, h.counted.rs1_le_leastR, Nat.sub_le _ _⟩

/-- An `EdgeP` leaves no read total but the latest as a candidate, and passes no write total over. -/
theorem edgeP_least {w : BitVec 9} (hw : e.word = .p w) (hr : s.rst = false) (he : applyEdge e s = .next t) :
    leastR t = t.Rt ∧ leastW s ≤ leastW t := by
  rcases exec_writeOp_next (edgeP_next hw hr he) with rfl | ⟨d, -, -, rfl⟩
  · exact ⟨rfl, le_rfl⟩
  · exact ⟨rfl, Nat.sub_le _ _⟩

/-- An `EdgeC` leaves no write total but the latest as a candidate, and passes no read total over. -/
theorem edgeC_least {w : BitVec 4} (hw : e.word = .c w) (hr : s.rst = false) (he : applyEdge e s = .next t) :
    leastW t = t.Wt ∧ leastR s ≤ leastR t := by
  obtain ⟨u, hu, ht⟩ := edgeC_next hw hr he
  obtain ⟨q, n, ev, rfl, -⟩ := exec_qdecOp_next hu
  rcases exec_readOp_next ht with ⟨r, -, rfl, -⟩ | ⟨b, -, -, -, rfl⟩
  · exact ⟨rfl, le_rfl⟩
  · exact ⟨rfl, Nat.sub_le _ _⟩

theorem WriteEffect.wt_le {w : BitVec 9} (h : WriteEffect w s t) : s.Wt ≤ t.Wt := by
  cases h <;> omega

theorem ReadEffect.rt_le {w : BitVec 4} (h : ReadEffect w s t) : s.Rt ≤ t.Rt := by
  cases h <;> omega

/-- An `EdgeP` receives the read total and may move the write total. -/
theorem edgeP_stages {w : BitVec 9} (h : Inv s) (hw : e.word = .p w) (hr : s.rst = false)
    (he : applyEdge e s = .next t) : (rStages s).Shifts (rStages t) ∧ (wStages s).Waits (wStages t) := by
  obtain ⟨v, hv, ht⟩ := h.counted.edgeP hw hr he
  obtain ⟨hrs, hrs1, hws, hws1⟩ := ht.views
  obtain ⟨hleastR, hleastW⟩ := edgeP_least hw hr he
  obtain ⟨-, -, -, -, -, -, hRt, -⟩ := edgeP_frame hw he
  exact ⟨⟨hRt, hleastR, hv.trans hrs1.ge, hrs⟩, ⟨(edgeP_effect h hw hr he).wt_le, hleastW, hws1, hws⟩⟩

/-- An `EdgeC` receives the write total and may move the read total. -/
theorem edgeC_stages {w : BitVec 4} (h : Inv s) (hw : e.word = .c w) (hr : s.rst = false)
    (he : applyEdge e s = .next t) : (wStages s).Shifts (wStages t) ∧ (rStages s).Waits (rStages t) := by
  obtain ⟨v, hv, ht⟩ := h.counted.edgeC hw hr he
  obtain ⟨hrs, hrs1, hws, hws1⟩ := ht.views
  obtain ⟨hleastW, hleastR⟩ := edgeC_least hw hr he
  obtain ⟨-, -, -, -, -, hWt, -, -⟩ := edgeC_frame hw he
  exact ⟨⟨hWt, hleastW, hv.trans hws1.ge, hws⟩, ⟨(edgeC_effect h hw hr he).rt_le, hleastR, hrs1, hrs⟩⟩

/-- Over every edge but the reset pin's neither direction goes back. -/
theorem Inv.stages_le (h : Inv s) (hn : edgeIsR e = false) (he : Machine.applyEdge e s = .next t) :
    (wStages s).Le (wStages t) ∧ (rStages s).Le (rStages t) := by
  cases hr : s.rst with
  | true =>
    rw [edge_held hr hn he]
    exact ⟨⟨le_rfl, le_rfl, le_rfl⟩, ⟨le_rfl, le_rfl, le_rfl⟩⟩
  | false =>
    cases hw : e.word with
    | c w =>
      obtain ⟨hwS, hrS⟩ := edgeC_stages h hw hr he
      exact ⟨hwS.le h.wStages_ordered, hrS.le⟩
    | p w =>
      obtain ⟨hrS, hwS⟩ := edgeP_stages h hw hr he
      exact ⟨hwS.le, hrS.le h.rStages_ordered⟩
    | r w => simp [edgeIsR, hw] at hn

end

/-- Settles O44: the stages of both directions never go back. -/
theorem viewsNeverDecrease : Obligations.ViewsNeverDecrease := by
  intro e s t h hn he
  obtain ⟨⟨hWt, hWs1, hWs⟩, ⟨hRt, hRs1, hRs⟩⟩ := h.stages_le hn he
  exact ⟨hWs, hRs, hWs1, hRs1, hWt, hRt⟩

/-! ### The contract (R41) -/

section
variable {e : EdgeIn} {s t : State}

/-- After an `EdgeP` the contract's write side is the storage's and its `Rs` has caught up with the first stage. -/
theorem edgeP_contract {w : BitVec 9} (h : Inv s) (hw : e.word = .p w) (hr : s.rst = false)
    (he : applyEdge e s = .next t) :
    contractOf t = { contractOf s with mem := t.mem, Wt := t.Wt, Rs := viewRs1 s } := by
  obtain ⟨hrS, hwS⟩ := edgeP_stages h hw hr he
  have hRs : viewRs t = viewRs1 s := hrS.second_eq
  have hRt : t.Rt = s.Rt := hrS.total_eq
  have hWs : viewWs t = viewWs s := hwS.second_eq
  rw [contractOf, applyEdge_cfg he, hRs, hRt, hWs]
  rfl

/-- After an `EdgeC` the contract's read total is the machine's and its `Ws` has caught up with the first stage. -/
theorem edgeC_contract {w : BitVec 4} (h : Inv s) (hw : e.word = .c w) (hr : s.rst = false)
    (he : applyEdge e s = .next t) :
    contractOf t = { contractOf s with Rt := t.Rt, Ws := viewWs1 s } := by
  obtain ⟨hwS, hrS⟩ := edgeC_stages h hw hr he
  have hWs : viewWs t = viewWs1 s := hwS.second_eq
  have hWt : t.Wt = s.Wt := hwS.total_eq
  have hRs : viewRs t = viewRs s := hrS.second_eq
  obtain ⟨hmem, -⟩ := edgeC_frame hw he
  rw [contractOf, applyEdge_cfg he, hWs, hWt, hRs, hmem]
  rfl

theorem edgeP_syncR {w : BitVec 9} (h : Inv s) (hw : e.word = .p w) (hr : s.rst = false)
    (he : applyEdge e s = .next t) : ({ contractOf s with mem := t.mem, Wt := t.Wt } : Contract).SyncR (contractOf t) :=
  ⟨viewRs1 s, h.rs_le_rs1, h.rs1_le_rt, edgeP_contract h hw hr he⟩

theorem edgeC_syncW {w : BitVec 4} (h : Inv s) (hw : e.word = .c w) (hr : s.rst = false)
    (he : applyEdge e s = .next t) : ({ contractOf s with Rt := t.Rt } : Contract).SyncW (contractOf t) :=
  ⟨viewWs1 s, h.ws_le_ws1, h.ws1_le_wt, edgeC_contract h hw hr he⟩

theorem WriteEffect.contract_push {w : BitVec 9} {d : Byte} (h : WriteEffect w s t) (hd : 2 ≤ s.cfg.fifo_depth)
    (hop : writeOp w = .push d) : (contractOf s).push d = { contractOf s with mem := t.mem, Wt := t.Wt } := by
  cases h with
  | wnop hop' => simp [hop] at hop'
  | dropped d' _ hfull hmem hWt =>
    have hno : ¬ s.Wt - viewRs s < s.cfg.fifo_depth := by omega
    simp [Contract.push, contractOf, hno, hmem, hWt]
  | accepted d' hop' hroom hmem hWt =>
    have hlt : s.Wt - viewRs s < s.cfg.fifo_depth := by omega
    obtain rfl : d = d' := by simpa [hop] using hop'
    simp [Contract.push, contractOf, hlt, hmem, hWt]

theorem ReadEffect.contract_pop {w : BitVec 4} (h : ReadEffect w s t) (hop : readOp w = .pop) :
    (contractOf s).pop = { contractOf s with Rt := t.Rt } ∧
    ((contractOf s).popResult = none ∧ t.rd = .empty ∨ ∃ b, (contractOf s).popResult = some b ∧ t.rd = .byte b) := by
  cases h with
  | rnop hop' => simp [hop] at hop'
  | empty _ hnone hRt hrd => simp [Contract.pop, Contract.popResult, contractOf, hnone.not_lt, hRt, hrd]
  | byte b _ hsome hcell hRt hrd => simp [Contract.pop, Contract.popResult, contractOf, hsome, hcell, hRt, hrd]

end

/-- Settles O54: what an edge stores or takes is the contract's operation, and the views catch up with the first
stages. -/
theorem machineRefinesTheContract : Obligations.MachineRefinesTheContract := by
  intro e s t h hr he
  refine ⟨fun w d hw hop => ?_, fun w hw hop => ?_, fun w hw hop => ?_, fun w hw hop => ?_, fun hw => ?_⟩
  · obtain ⟨-, -, hdepth, -⟩ := consistent_parts h.cfg_consistent
    rw [(edgeP_effect h hw hr he).contract_push hdepth hop]
    exact edgeP_syncR h hw hr he
  · have hsync := edgeP_syncR h hw hr he
    cases edgeP_effect h hw hr he with
    | wnop _ hmem hWt => rwa [hmem, hWt] at hsync
    | dropped d hop' | accepted d hop' => simp [hop] at hop'
  · obtain ⟨hpop, hres⟩ := (edgeC_effect h hw hr he).contract_pop hop
    rw [hpop]
    refine ⟨edgeC_syncW h hw hr he, ?_⟩
    rcases hres with ⟨hnone, hrd⟩ | ⟨b, hsome, hrd⟩
    · simp [hnone, hrd]
    · simp [hsome, hrd]
  · have hsync := edgeC_syncW h hw hr he
    cases edgeC_effect h hw hr he with
    | rnop _ hRt => rwa [hRt] at hsync
    | empty hop' | byte b hop' => simp [hop] at hop'
  · rw [applyEdge, hw, applyWord_reset] at he
    cases he
    obtain ⟨hRs, -, hWs, -⟩ := ((h.counted.setDraw e.stale).setRst true).toReset.views
    rw [contractOf, hRs, hWs]
    rfl

/-! ### Runs -/

theorem presented_c {e : EdgeIn} {w : BitVec 4} (hw : e.word = .c w) : presented [e] = [] := by
  simp [presented, hw]

theorem presented_push {e : EdgeIn} {w : BitVec 9} {d : Byte} (hw : e.word = .p w) (hop : writeOp w = .push d) :
    presented [e] = [d] := by
  simp [presented, hw, hop]

theorem presented_wnop {e : EdgeIn} {w : BitVec 9} (hw : e.word = .p w) (hop : writeOp w = .wnop) :
    presented [e] = [] := by
  simp [presented, hw, hop]

theorem presented_cons (e : EdgeIn) (es : List EdgeIn) : presented (e :: es) = presented [e] ++ presented es := by
  cases hw : e.word with
  | c w | r w => simp [presented, hw]
  | p w => rcases writeOp_cases w with ⟨d, hop⟩ | hop <;> simp [presented, hw, hop]

theorem presented_append (xs ys : List EdgeIn) : presented (xs ++ ys) = presented xs ++ presented ys := by
  induction xs with
  | nil => rfl
  | cons e xs ih => rw [List.cons_append, presented_cons, ih, presented_cons e xs, List.append_assoc]

theorem Run.edges_append {xs ys : List EdgeIn} {r r' : Run} :
    Run.edges (xs ++ ys) r = some r' ↔ ∃ r1, Run.edges xs r = some r1 ∧ Run.edges ys r1 = some r' := by
  induction xs generalizing r with
  | nil => simp [Run.edges]
  | cons e xs ih =>
    rw [List.cons_append, Run.edges]
    cases hr : r.edge e <;> simp [Run.edges, hr, ih]

theorem Inv.edge {r r' : Run} {e : EdgeIn} (h : Inv r.s) (he : r.edge e = some r') : Inv r'.s :=
  h.applyEdge (Run.edge_some he).1

theorem Inv.edges {r r' : Run} {es : List EdgeIn} (h : Inv r.s) (he : Run.edges es r = some r') : Inv r'.s := by
  induction es generalizing r with
  | nil => cases he; exact h
  | cons e es ih =>
    obtain ⟨r1, hedge, hrun⟩ := Run.edges_cons.1 he
    exact ih (h.edge hedge) hrun

/-- Every run from a state of the invariant completes. -/
theorem Inv.edges_total {r : Run} (h : Inv r.s) (es : List EdgeIn) : ∃ r', Run.edges es r = some r' := by
  induction es generalizing r with
  | nil => exact ⟨r, rfl⟩
  | cons e es ih =>
    obtain ⟨t, ht⟩ := h.applyEdge_total e
    have hedge : r.edge e = some (r.record e t) := by simp [Run.edge, ht]
    obtain ⟨r', hrun⟩ := ih (h.edge hedge)
    exact ⟨r', Run.edges_cons.2 ⟨_, hedge, hrun⟩⟩

/-- Induction over a run: what holds of the start with no edges, and is kept by each allowed edge appended, holds at
the end. -/
theorem Run.edges_keep {P : List EdgeIn → Run → Prop} {ok : EdgeIn → Bool}
    (hstep : ∀ es e r r', P es r → ok e = true → r.edge e = some r' → P (es ++ [e]) r')
    {es : List EdgeIn} {r r' : Run} (hstart : P [] r) (hok : es.all ok = true) (hrun : Run.edges es r = some r') :
    P es r' := by
  induction es using List.reverseRecOn generalizing r' with
  | nil => cases hrun; exact hstart
  | append_singleton es e ih =>
    rw [List.all_append, Bool.and_eq_true] at hok
    obtain ⟨r1, hrun1, hlast⟩ := Run.edges_append.1 hrun
    obtain ⟨r2, hedge, hnil⟩ := Run.edges_cons.1 hlast
    cases hnil
    exact hstep es e r1 _ (ih hok.1 hrun1) (by simpa using hok.2) hedge

/-! ### What one event adds to a record -/

section
variable {r : Run} {e : EdgeIn} {t : State}

theorem Run.record_p_same {w : BitVec 9} (hw : e.word = .p w) (h : t.Wt = r.s.Wt) :
    (r.record e t).accepted = r.accepted ∧ (r.record e t).popped = r.popped := by
  simp [Run.record, hw, h]

theorem Run.record_p_moved {w : BitVec 9} (hw : e.word = .p w) (h : t.Wt = r.s.Wt + 1) :
    (r.record e t).accepted = r.accepted ++ presented [e] ∧ (r.record e t).popped = r.popped := by
  simp [Run.record, hw, h]

theorem Run.record_c_held {w : BitVec 4} (hw : e.word = .c w) (h : r.s.rst = true) :
    (r.record e t).accepted = r.accepted ∧ (r.record e t).popped = r.popped := by
  simp [Run.record, hw, h]

theorem Run.record_c {w : BitVec 4} (hw : e.word = .c w) (h : r.s.rst = false) :
    (r.record e t).accepted = r.accepted ∧ (r.record e t).popped = r.popped ++ t.rd.bytes := by
  simp [Run.record, hw, h]

theorem Run.record_reset (hw : e.word = .r 1#1) : r.record e t = Run.start t := by
  simp [Run.record, hw]

theorem Run.record_release (hw : e.word = .r 0#1) : r.record e t = { r with s := t } := by
  simp [Run.record, hw]

end

/-- What an event that leaves the reset pin alone does to the storage and adds to the record: nothing (and if a byte
was presented, why it was dropped), a stored byte, or a popped one. -/
inductive Run.Moves (e : EdgeIn) (r r' : Run) : Prop
  | idle (haccepted : r'.accepted = r.accepted) (hpopped : r'.popped = r.popped) (hWt : r'.s.Wt = r.s.Wt)
      (hRt : r'.s.Rt = r.s.Rt) (hmem : r'.s.mem = r.s.mem)
      (hdrop : r.s.rst = false → presented [e] = [] ∨ r.s.Wt = viewRs r.s + r.s.cfg.fifo_depth)
  | push (d : Byte) (hpresented : presented [e] = [d]) (hroom : r.s.Wt < viewRs r.s + r.s.cfg.fifo_depth)
      (haccepted : r'.accepted = r.accepted ++ [d]) (hpopped : r'.popped = r.popped) (hWt : r'.s.Wt = r.s.Wt + 1)
      (hRt : r'.s.Rt = r.s.Rt) (hmem : r'.s.mem = r.s.mem.write (r.s.Wt % r.s.cfg.fifo_depth) d)
  | pop (b : Byte) (hpoll : noPoll e = false) (hsome : r.s.Rt < viewWs r.s)
      (hcell : r.s.mem.read (r.s.Rt % r.s.cfg.fifo_depth) = some b)
      (haccepted : r'.accepted = r.accepted) (hpopped : r'.popped = r.popped ++ [b]) (hWt : r'.s.Wt = r.s.Wt)
      (hRt : r'.s.Rt = r.s.Rt + 1) (hmem : r'.s.mem = r.s.mem)

section
variable {r r' : Run} {e : EdgeIn}

theorem Run.moves_held (hr : r.s.rst = true) (hn : edgeIsR e = false) (he : r.edge e = some r') : Run.Moves e r r' := by
  obtain ⟨hedge, hrec⟩ := Run.edge_some he
  have hs := edge_held hr hn hedge
  have hsame : r'.accepted = r.accepted ∧ r'.popped = r.popped := by
    rw [hrec]
    cases hw : e.word with
    | c w => exact Run.record_c_held hw hr
    | p w => exact Run.record_p_same hw (by rw [hs]; rfl)
    | r w => simp [edgeIsR, hw] at hn
  exact .idle hsame.1 hsame.2 (by rw [hs]; rfl) (by rw [hs]; rfl) (by rw [hs]; rfl) (by simp [hr])

theorem Run.moves_edgeP {w : BitVec 9} (h : Inv r.s) (hw : e.word = .p w) (hr : r.s.rst = false)
    (he : r.edge e = some r') : Run.Moves e r r' := by
  obtain ⟨hedge, hrec⟩ := Run.edge_some he
  obtain ⟨-, -, -, -, -, -, hRt, -⟩ := edgeP_frame hw hedge
  cases edgeP_effect h hw hr hedge with
  | wnop hop hmem hWt =>
    obtain ⟨haccepted, hpopped⟩ := Run.record_p_same hw hWt
    rw [← hrec] at haccepted hpopped
    exact .idle haccepted hpopped hWt hRt hmem fun _ => .inl (presented_wnop hw hop)
  | dropped d _ hfull hmem hWt =>
    obtain ⟨haccepted, hpopped⟩ := Run.record_p_same hw hWt
    rw [← hrec] at haccepted hpopped
    exact .idle haccepted hpopped hWt hRt hmem fun _ => .inr hfull
  | accepted d hop hroom hmem hWt =>
    obtain ⟨haccepted, hpopped⟩ := Run.record_p_moved hw hWt
    rw [← hrec] at haccepted hpopped
    rw [presented_push hw hop] at haccepted
    exact .push d (presented_push hw hop) hroom haccepted hpopped hWt hRt hmem

theorem Run.moves_edgeC {w : BitVec 4} (h : Inv r.s) (hw : e.word = .c w) (hr : r.s.rst = false)
    (he : r.edge e = some r') : Run.Moves e r r' := by
  obtain ⟨hedge, hrec⟩ := Run.edge_some he
  obtain ⟨hmem, -, -, -, -, hWt, -, -⟩ := edgeC_frame hw hedge
  obtain ⟨haccepted, hpopped⟩ := Run.record_c (t := r'.s) hw hr
  rw [← hrec] at haccepted hpopped
  cases edgeC_effect h hw hr hedge with
  | rnop _ hRt hrd =>
    rw [hrd, ReadResult.bytes, List.append_nil] at hpopped
    exact .idle haccepted hpopped hWt hRt hmem fun _ => .inl (presented_c hw)
  | empty _ _ hRt hrd =>
    rw [hrd, ReadResult.bytes, List.append_nil] at hpopped
    exact .idle haccepted hpopped hWt hRt hmem fun _ => .inl (presented_c hw)
  | byte b hop hsome hcell hRt hrd =>
    rw [hrd, ReadResult.bytes] at hpopped
    exact .pop b (by simp [noPoll, hw, hop]) hsome hcell haccepted hpopped hWt hRt hmem

theorem Run.moves (h : Inv r.s) (hn : edgeIsR e = false) (he : r.edge e = some r') : Run.Moves e r r' := by
  cases hr : r.s.rst with
  | true => exact Run.moves_held hr hn he
  | false =>
    cases hw : e.word with
    | c w => exact Run.moves_edgeC h hw hr he
    | p w => exact Run.moves_edgeP h hw hr he
    | r w => simp [edgeIsR, hw] at hn

theorem Run.edge_cfg (he : r.edge e = some r') : r'.s.cfg = r.s.cfg := applyEdge_cfg (Run.edge_some he).1

theorem Run.edge_rst (hn : edgeIsR e = false) (he : r.edge e = some r') : r'.s.rst = r.s.rst := by
  obtain ⟨hedge, -⟩ := Run.edge_some he
  cases hw : e.word with
  | c w =>
    obtain ⟨-, -, -, -, -, -, -, hrst⟩ := edgeC_frame hw hedge
    exact hrst
  | p w =>
    obtain ⟨-, -, -, -, -, -, -, -, -, -, hrst⟩ := edgeP_frame hw hedge
    exact hrst
  | r w => simp [edgeIsR, hw] at hn

end

/-! ### The contents of the queue (R36, R42) -/

/-- A record that began with the totals at `n` and nothing stored: it counts the totals, the popped bytes are the first
accepted, and the cells hold the rest. -/
structure Contents (n : Nat) (r : Run) : Prop where
  wt_eq : r.s.Wt = n + r.accepted.length
  rt_eq : r.s.Rt = n + r.popped.length
  popped_eq : r.popped = r.accepted.take r.popped.length
  cells : ∀ k < r.accepted.length, r.popped.length ≤ k →
    r.s.mem.read ((n + k) % r.s.cfg.fifo_depth) = r.accepted[k]?

/-- The invariant of a recorded run is that of its state and contents counted from 0. -/
theorem runInv_iff (r : Run) : RunInv r ↔ Inv r.s ∧ Contents 0 r := by
  constructor
  · rintro ⟨hinv, hlen, hpopped, hcells⟩
    have hrt : r.popped.length = r.s.Rt := by
      obtain ⟨-, -, hrt, hws, hws1, -, -⟩ := hinv.counted.order
      rw [hpopped, List.length_take]
      omega
    refine ⟨hinv, ⟨by omega, by omega, hrt ▸ hpopped, fun k hk hpk => ?_⟩⟩
    rw [Nat.zero_add]
    exact hcells k (hlen ▸ hk) (hrt ▸ hpk)
  · rintro ⟨hinv, hwt, hrt, hpopped, hcells⟩
    rw [Nat.zero_add] at hwt hrt
    refine ⟨hinv, hwt.symm, hrt ▸ hpopped, fun k hk hpk => ?_⟩
    rw [← hcells k (hwt ▸ hk) (hrt ▸ hpk), Nat.zero_add]

/-- A fresh record of an empty queue. -/
theorem contents_start {s : State} (h : s.Wt = s.Rt) : Contents s.Wt (Run.start s) :=
  ⟨rfl, h ▸ rfl, rfl, nofun⟩

theorem Contents.moves {n : Nat} {r r' : Run} {e : EdgeIn} (hc : Contents n r) (h : Inv r.s)
    (hcfg : r'.s.cfg = r.s.cfg) (hm : Run.Moves e r r') : Contents n r' := by
  obtain ⟨hwt, hrt, hpopped_eq, hcells⟩ := hc
  obtain ⟨hrs, hrs1, hrtws, hws, hws1, -, -⟩ := h.counted.order
  cases hm with
  | idle haccepted hpopped hWt hRt hmem hdrop =>
    exact ⟨by rw [hWt, hwt, haccepted], by rw [hRt, hrt, hpopped], by rwa [hpopped, haccepted],
      by rwa [hpopped, haccepted, hmem, hcfg]⟩
  | push d _ hroom haccepted hpopped hWt hRt hmem =>
    refine ⟨by rw [haccepted, List.length_append, List.length_singleton]; omega, by rw [hRt, hrt, hpopped], ?_,
      fun k hk hpk => ?_⟩
    · rw [hpopped, haccepted, List.take_append_of_le_length (by omega)]
      exact hpopped_eq
    · rw [haccepted, List.length_append, List.length_singleton] at hk
      rw [hpopped] at hpk
      rw [hmem, hcfg, haccepted, hwt]
      rcases Nat.lt_succ_iff_lt_or_eq.1 hk with hk | rfl
      · rw [Memory.read_write_other _ _ _ _ (mod_ne_of_lt (by omega) (by omega)), List.getElem?_append_left hk]
        exact hcells k hk hpk
      · rw [Memory.read_write_same, List.getElem?_concat_length]
  | pop b _ hsome hcell haccepted hpopped hWt hRt hmem =>
    have hlt : r.popped.length < r.accepted.length := by omega
    have hb : r.accepted[r.popped.length]? = some b := by rw [← hcells _ hlt le_rfl, ← hrt, hcell]
    have hlen : r'.popped.length = r.popped.length + 1 := by rw [hpopped, List.length_append, List.length_singleton]
    refine ⟨by rw [haccepted, hWt, hwt], by omega, ?_, fun k hk hpk => ?_⟩
    · rw [hlen, haccepted, List.take_add_one, hb, ← hpopped_eq, hpopped]
      rfl
    · rw [hmem, hcfg, haccepted]
      exact hcells k (haccepted ▸ hk) (by omega)

theorem Run.edge_runInv_of_reset {r r' : Run} {e : EdgeIn} {w : BitVec 1} (h : RunInv r) (hw : e.word = .r w)
    (he : r.edge e = some r') : RunInv r' := by
  obtain ⟨hinv, hc⟩ := (runInv_iff r).1 h
  obtain ⟨hedge, hrec⟩ := Run.edge_some he
  have hinv' := hinv.edge he
  rw [applyEdge, hw] at hedge
  rcases wordR_cases w with rfl | rfl
  · rw [applyWord_reset] at hedge
    have hs := Host.Outcome.next.inj hedge
    rw [hrec, Run.record_reset hw]
    have hzero : r'.s.Wt = 0 := hs ▸ rfl
    have hzero' : r'.s.Rt = 0 := hs ▸ rfl
    exact (runInv_iff _).2 ⟨hinv', hzero ▸ contents_start (hzero.trans hzero'.symm)⟩
  · rw [applyWord_release] at hedge
    have hs := Host.Outcome.next.inj hedge
    rw [hrec, Run.record_release hw, ← hs]
    exact (runInv_iff _).2 ⟨hs ▸ hinv', { hc with }⟩

/-- Settles O47: RESET starts an empty record anew; every other event stores, pops or does nothing. -/
theorem everyEdgeKeepsTheQueueContents : Obligations.EveryEdgeKeepsTheQueueContents := by
  intro r r' e h he
  cases hn : edgeIsR e with
  | true =>
    cases hw : e.word with
    | r w => exact Run.edge_runInv_of_reset h hw he
    | c w | p w => simp [edgeIsR, hw] at hn
  | false =>
    obtain ⟨hinv, hc⟩ := (runInv_iff r).1 h
    exact (runInv_iff r').2 ⟨hinv.edge he, hc.moves hinv (Run.edge_cfg he) (Run.moves hinv hn he)⟩

/-! ### What a run adds to a record (R36) -/

/-- What the events `es`, none of the reset pin, have added to the record `r0`. -/
structure Run.Extends (r0 : Run) (es : List EdgeIn) (r : Run) : Prop where
  inv : Inv r.s
  cfg_eq : r.s.cfg = r0.s.cfg
  rst_eq : r.s.rst = r0.s.rst
  added : ∃ as bs, r.accepted = r0.accepted ++ as ∧ r.popped = r0.popped ++ bs ∧ as.Sublist (presented es) ∧
    r.s.Wt = r0.s.Wt + as.length ∧ r.s.Rt = r0.s.Rt + bs.length

theorem Run.Extends.refl {r0 : Run} (h : Inv r0.s) : r0.Extends [] r0 :=
  ⟨h, rfl, rfl, [], [], by simp⟩

theorem not_edgeIsR {e : EdgeIn} (h : (!edgeIsR e) = true) : edgeIsR e = false := by simpa using h

theorem Run.Extends.edge {r0 r r' : Run} {es : List EdgeIn} {e : EdgeIn} (h : r0.Extends es r)
    (hn : edgeIsR e = false) (he : r.edge e = some r') : r0.Extends (es ++ [e]) r' := by
  obtain ⟨hinv, hcfg, hrst, as, bs, has, hbs, hsub, hWt0, hRt0⟩ := h
  have hsub' : as.Sublist (presented (es ++ [e])) := by
    rw [presented_append]
    exact hsub.trans (List.sublist_append_left _ _)
  refine ⟨hinv.edge he, (Run.edge_cfg he).trans hcfg, (Run.edge_rst hn he).trans hrst, ?_⟩
  cases Run.moves hinv hn he with
  | idle haccepted hpopped hWt hRt _ _ =>
    exact ⟨as, bs, haccepted.trans has, hpopped.trans hbs, hsub', hWt.trans hWt0, hRt.trans hRt0⟩
  | push d hpresented _ haccepted hpopped hWt hRt _ =>
    refine ⟨as ++ [d], bs, ?_, hpopped.trans hbs, ?_, ?_, hRt.trans hRt0⟩
    · rw [haccepted, has, List.append_assoc]
    · rw [presented_append, hpresented]
      exact hsub.append (List.Sublist.refl _)
    · rw [hWt, hWt0, List.length_append, List.length_singleton, Nat.add_assoc]
  | pop b _ _ _ haccepted hpopped hWt hRt _ =>
    refine ⟨as, bs ++ [b], haccepted.trans has, ?_, hsub', hWt.trans hWt0, ?_⟩
    · rw [hpopped, hbs, List.append_assoc]
    · rw [hRt, hRt0, List.length_append, List.length_singleton, Nat.add_assoc]

theorem Run.extends_of_edges {r0 r : Run} {es : List EdgeIn} (h : Inv r0.s) (hn : noReset es = true)
    (hrun : Run.edges es r0 = some r) : r0.Extends es r :=
  Run.edges_keep (fun _ _ _ _ hext hok he => hext.edge (not_edgeIsR hok) he) (.refl h) hn hrun

theorem Contents.edges {n : Nat} {r0 r : Run} {es : List EdgeIn} (hc : Contents n r0) (h : Inv r0.s)
    (hn : noReset es = true) (hrun : Run.edges es r0 = some r) : Contents n r := by
  have hboth : Inv r.s ∧ Contents n r :=
    Run.edges_keep (P := fun _ r => Inv r.s ∧ Contents n r)
      (fun _ _ _ _ hkept hok he => ⟨hkept.1.edge he,
        hkept.2.moves hkept.1 (Run.edge_cfg he) (Run.moves hkept.1 (not_edgeIsR hok) he)⟩) ⟨h, hc⟩ hn hrun
  exact hboth.2

/-- Settles O48: the contents, counted from the totals of the empty queue, along the run. -/
theorem bytesLeaveInOrder : Obligations.BytesLeaveInOrder := by
  intro s es h hempty hn
  obtain ⟨r, hrun⟩ := h.edges_total (r := Run.start s) es
  obtain ⟨hinv, hcfg, -, as, -, has, -, hsub, -, -⟩ := Run.extends_of_edges (r0 := Run.start s) h hn hrun
  obtain ⟨hwt, hrt, hpopped, -⟩ := (contents_start hempty).edges h hn hrun
  obtain ⟨hrs, hrs1, hrtws, hws, hws1, hfull, -⟩ := hinv.counted.order
  have hdepth : r.s.cfg.fifo_depth = s.cfg.fifo_depth := congrArg Config.fifo_depth hcfg
  obtain rfl : r.accepted = as := has
  exact ⟨r, hrun, hpopped, hwt.symm, by omega, by omega, by omega, hsub⟩

/-! ### A burst (R44) -/

/-- A burst of `es` from `s` without a POP, the producer's view being current: it keeps as many bytes as there was room
for at its start. -/
structure Burst (s : State) (es : List EdgeIn) (r : Run) : Prop where
  inv : Inv r.s
  cfg_eq : r.s.cfg = s.cfg
  rst_eq : r.s.rst = false
  view_eq : viewRs r.s = s.Rt
  rt_eq : r.s.Rt = s.Rt
  wt_eq : r.s.Wt = s.Wt + r.accepted.length
  accepted_eq : r.accepted = (presented es).take (s.cfg.fifo_depth - (s.Wt - s.Rt))

theorem edgeIsR_of_noPoll {e : EdgeIn} (h : noPoll e = true) : edgeIsR e = false := by
  cases hw : e.word with
  | c w | p w => simp [edgeIsR, hw]
  | r w => simp [noPoll, hw] at h

theorem burst_start {s : State} (h : Inv s) (hr : s.rst = false) (hview : viewRs s = s.Rt) :
    Burst s [] (Run.start s) :=
  ⟨h, rfl, hr, hview, rfl, rfl, List.take_nil.symm⟩

theorem Burst.edge {s : State} {es : List EdgeIn} {e : EdgeIn} {r r' : Run} (h : Burst s es r) (hs : s.Rt ≤ s.Wt)
    (hq : noPoll e = true) (he : r.edge e = some r') : Burst s (es ++ [e]) r' := by
  obtain ⟨hinv, hcfg, hrst, hview, hrt, hwt, haccepted_eq⟩ := h
  have hn := edgeIsR_of_noPoll hq
  have hinv' := hinv.edge he
  have hview' : r.s.Rt = r'.s.Rt → viewRs r'.s = s.Rt := by
    intro hsame
    obtain ⟨-, -, -, hle⟩ := hinv.stages_le hn (Run.edge_some he).1
    obtain ⟨hrs, hrs1, -⟩ := hinv'.counted.order
    have hle : viewRs r.s ≤ viewRs r'.s := hle
    omega
  have hdepth : r.s.cfg.fifo_depth = s.cfg.fifo_depth := congrArg Config.fifo_depth hcfg
  have hlen : r.accepted.length = min (s.cfg.fifo_depth - (s.Wt - s.Rt)) (presented es).length := by
    rw [haccepted_eq, List.length_take]
  have hcfg' := (Run.edge_cfg he).trans hcfg
  have hrst' := (Run.edge_rst hn he).trans hrst
  cases Run.moves hinv hn he with
  | idle haccepted hpopped hWt hRt _ hdrop =>
    refine ⟨hinv', hcfg', hrst', hview' hRt.symm, hRt.trans hrt, by rw [hWt, hwt, haccepted], ?_⟩
    rw [presented_append, List.take_append, ← haccepted_eq, haccepted]
    rcases hdrop hrst with hnone | hfull
    · simp [hnone]
    · have hzero : s.cfg.fifo_depth - (s.Wt - s.Rt) - (presented es).length = 0 := by omega
      simp [hzero]
  | push d hpresented hroom haccepted hpopped hWt hRt _ =>
    refine ⟨hinv', hcfg', hrst', hview' hRt.symm, hRt.trans hrt, ?_, ?_⟩
    · rw [hWt, hwt, haccepted, List.length_append, List.length_singleton, Nat.add_assoc]
    · have hpos : 1 ≤ s.cfg.fifo_depth - (s.Wt - s.Rt) - (presented es).length := by omega
      rw [presented_append, List.take_append, ← haccepted_eq, haccepted, hpresented, List.take_of_length_le hpos]
  | pop b hpoll => simp [hq] at hpoll

/-- From reset the cells hold the accepted bytes from the first on, and nothing else. -/
theorem Burst.cells {s : State} {es : List EdgeIn} {e : EdgeIn} {r r' : Run} (h : Burst s es r) (hW : s.Wt = 0)
    (hR : s.Rt = 0) (hcells : ∀ i < s.cfg.fifo_depth, r.s.mem.read i = r.accepted[i]?) (hq : noPoll e = true)
    (he : r.edge e = some r') : ∀ i < s.cfg.fifo_depth, r'.s.mem.read i = r'.accepted[i]? := by
  intro i hi
  cases Run.moves h.inv (edgeIsR_of_noPoll hq) he with
  | idle haccepted _ _ _ hmem _ => rw [hmem, haccepted, hcells i hi]
  | push d _ hroom haccepted _ _ _ hmem =>
    have hlen : r.s.Wt = r.accepted.length := by rw [h.wt_eq, hW, Nat.zero_add]
    rw [h.view_eq, h.cfg_eq, hR, Nat.zero_add] at hroom
    rw [hmem, haccepted, h.cfg_eq, Nat.mod_eq_of_lt hroom, hlen, Memory.read_write]
    split
    · rename_i heq
      rw [heq, List.getElem?_concat_length]
    · rename_i hne
      rw [hcells i hi, List.getElem?_append]
      split
      · rfl
      · rw [List.getElem?_eq_none (by omega), List.getElem?_eq_none (by simp; omega)]
  | pop b hpoll => simp [hq] at hpoll

/-- Settles O49: the burst's room and, from reset, its cells, along the run. -/
theorem burstKeepsExactlyTheCapacity : Obligations.BurstKeepsExactlyTheCapacity := by
  constructor
  · intro s es h hr hview hq
    obtain ⟨-, -, hrt, hws, hws1, -, -⟩ := h.counted.order
    obtain ⟨r, hrun⟩ := h.edges_total (r := Run.start s) es
    have hburst : Burst s es r :=
      Run.edges_keep (fun _ _ _ _ hb hok he => hb.edge (by omega) hok he) (burst_start h hr hview) hq hrun
    exact ⟨r, hrun, hburst.accepted_eq, hburst.rt_eq, hburst.wt_eq⟩
  · intro c es hc hq
    have h := invariantHoldsAfterReset c hc
    obtain ⟨-, -, hview, -⟩ := views_resetWith c
    obtain ⟨r, hrun⟩ := h.edges_total (r := Run.start (State.resetWith c)) es
    have hkept : Burst (State.resetWith c) es r ∧ ∀ i < c.fifo_depth, r.s.mem.read i = r.accepted[i]? :=
      Run.edges_keep
        (P := fun es r => Burst (State.resetWith c) es r ∧ ∀ i < c.fifo_depth, r.s.mem.read i = r.accepted[i]?)
        (fun _ _ _ _ hb hok he => ⟨hb.1.edge le_rfl hok he, hb.1.cells rfl rfl hb.2 hok he⟩)
        ⟨burst_start h rfl hview, fun _ _ => rfl⟩ hq hrun
    obtain ⟨hburst, hcells⟩ := hkept
    have haccepted : r.accepted = (presented es).take c.fifo_depth := hburst.accepted_eq
    refine ⟨r, hrun, haccepted, fun i hi => ?_⟩
    rw [hcells i hi, haccepted, List.getElem?_take_of_lt hi]

/-! ### The flags are pessimistic (R43) -/

/-- A run from reset ends in a state of the invariant. -/
theorem exists_inv_of_run {c : Config} {es : List EdgeIn} {p : State → Bool} (hc : c.consistent = true)
    (hrun : (Run.edges es (Run.start (State.resetWith c))).any (fun r => p r.s) = true) :
    ∃ s, Inv s ∧ p s = true := by
  obtain ⟨r, hr, hp⟩ := (Option.any_eq_true _ _).1 hrun
  exact ⟨r.s, (invariantHoldsAfterReset c hc).edges (r := Run.start (State.resetWith c)) hr, hp⟩

/-- The least window and the least depth. -/
def leastConfig : Config := { debounce_ns := 1, f_clk_c_hz := 1000000000, fifo_depth := 2 }

/-- Two PUSHes fill the least queue, two `EdgeC`s show them to the consumer, and a POP frees a cell the producer has
not seen. -/
def fillThenPop : List EdgeIn :=
  [⟨.p 0x1A5#9, false⟩, ⟨.p 0x15A#9, false⟩, ⟨.c 0#4, false⟩, ⟨.c 0#4, false⟩, ⟨.c 1#4, false⟩]

/-- Settles O46: the truth of a flag that is 0 by the order of the totals, the pessimism by two runs from reset. -/
theorem flagsArePessimistic : Obligations.FlagsArePessimistic := by
  refine ⟨fun s h => ?_, ?_, ?_⟩
  · obtain ⟨hrs, hrs1, hrt, hws, hws1, -, hdepth⟩ := h.counted.order
    constructor
    · intro hroom
      have hlt := h.wt_lt_of_room hroom
      omega
    · intro hbyte
      have hlt := h.rt_lt_of_byte hbyte
      omega
  · obtain ⟨s, h, hp⟩ := exists_inv_of_run (c := leastConfig) (es := fillThenPop)
      (p := fun s => wfull s && decide (s.Wt - s.Rt < s.cfg.fifo_depth)) (by decide) (by decide)
    exact ⟨s, h, by simpa using hp⟩
  · obtain ⟨s, h, hp⟩ := exists_inv_of_run (c := leastConfig) (es := [⟨.p 0x1A5#9, false⟩])
      (p := fun s => rempty s && decide (s.Rt < s.Wt)) (by decide) (by decide)
    exact ⟨s, h, by simpa using hp⟩

/-! ### The time to cross (R39, R105)

A value that has passed the candidates of the draw is in the first stage one edge of the receiving clock later, and in
the second one more edge later: after three edges at the latest, and never before the second. -/

/-- `k` receiving edges have brought a total of at least `n` this far. -/
structure Stages.Arrived (n k : Nat) (x : Stages) : Prop where
  total : n ≤ x.total
  least : 1 ≤ k → n ≤ x.least
  first : 2 ≤ k → n ≤ x.first
  second : 3 ≤ k → n ≤ x.second

/-- `k` receiving edges have brought nothing beyond `n` into these stages. -/
structure Stages.Unseen (n k : Nat) (x : Stages) : Prop where
  first : k = 0 → x.first ≤ n
  second : k ≤ 1 → x.second ≤ n

section
variable {n k : Nat} {x y : Stages}

theorem Stages.Arrived.start (h : n ≤ x.total) : x.Arrived n 0 := ⟨h, nofun, nofun, nofun⟩

theorem Stages.Arrived.shifts (h : x.Arrived n k) (hxy : x.Shifts y) : y.Arrived n (k + 1) where
  total := h.total.trans hxy.total_eq.ge
  least _ := h.total.trans (hxy.total_eq.ge.trans hxy.least_eq.ge)
  first hk := (h.least (Nat.le_of_succ_le_succ hk)).trans hxy.first_ge
  second hk := (h.first (Nat.le_of_succ_le_succ hk)).trans hxy.second_eq.ge

theorem Stages.Arrived.waits (h : x.Arrived n k) (hxy : x.Waits y) : y.Arrived n k where
  total := h.total.trans hxy.total_le
  least hk := (h.least hk).trans hxy.least_le
  first hk := (h.first hk).trans hxy.first_eq.ge
  second hk := (h.second hk).trans hxy.second_eq.ge

theorem Stages.Unseen.shifts (h : x.Unseen n k) (hxy : x.Shifts y) : y.Unseen n (k + 1) where
  first := nofun
  second hk := hxy.second_eq.le.trans (h.first (Nat.le_zero.1 (Nat.le_of_succ_le_succ hk)))

theorem Stages.Unseen.waits (h : x.Unseen n k) (hxy : x.Waits y) : y.Unseen n k where
  first hk := hxy.first_eq.le.trans (h.first hk)
  second hk := hxy.second_eq.le.trans (h.second hk)

end

/-! Counting the edges of a run. -/

theorem countC_snoc_c {es : List EdgeIn} {e : EdgeIn} {w : BitVec 4} (hw : e.word = .c w) :
    countC (es ++ [e]) = countC es + 1 ∧ countP (es ++ [e]) = countP es := by
  simp [countC, countP, edgeIsC, edgeIsP, hw]

theorem countP_snoc_p {es : List EdgeIn} {e : EdgeIn} {w : BitVec 9} (hw : e.word = .p w) :
    countC (es ++ [e]) = countC es ∧ countP (es ++ [e]) = countP es + 1 := by
  simp [countC, countP, edgeIsC, edgeIsP, hw]

/-- Both directions of a run over `es`: a write total of `n` and a read total of `m` have come as far as the edges of
the receiving clocks bring them. -/
structure Crossing (n m : Nat) (es : List EdgeIn) (r : Run) : Prop where
  inv : Inv r.s
  rst_eq : r.s.rst = false
  write : (wStages r.s).Arrived n (countC es)
  read : (rStages r.s).Arrived m (countP es)

theorem Crossing.edge {n m : Nat} {es : List EdgeIn} {e : EdgeIn} {r r' : Run} (h : Crossing n m es r)
    (hn : edgeIsR e = false) (he : r.edge e = some r') : Crossing n m (es ++ [e]) r' := by
  obtain ⟨hinv, hrst, hwrite, hread⟩ := h
  obtain ⟨hedge, -⟩ := Run.edge_some he
  have hrst' := (Run.edge_rst hn he).trans hrst
  cases hw : e.word with
  | c w =>
    obtain ⟨hC, hP⟩ := countC_snoc_c (es := es) hw
    obtain ⟨hwS, hrS⟩ := edgeC_stages hinv hw hrst hedge
    exact ⟨hinv.edge he, hrst', hC ▸ hwrite.shifts hwS, hP ▸ hread.waits hrS⟩
  | p w =>
    obtain ⟨hC, hP⟩ := countP_snoc_p (es := es) hw
    obtain ⟨hrS, hwS⟩ := edgeP_stages hinv hw hrst hedge
    exact ⟨hinv.edge he, hrst', hC ▸ hwrite.waits hwS, hP ▸ hread.shifts hrS⟩
  | r w => simp [edgeIsR, hw] at hn

theorem crossing_of_edges {n m : Nat} {es : List EdgeIn} {r0 r : Run} (h : Inv r0.s) (hr : r0.s.rst = false)
    (hn : n ≤ r0.s.Wt) (hm : m ≤ r0.s.Rt) (hno : noReset es = true) (hrun : Run.edges es r0 = some r) :
    Crossing n m es r :=
  Run.edges_keep (fun _ _ _ _ hcross hok he => hcross.edge (not_edgeIsR hok) he)
    ⟨h, hr, .start hn, .start hm⟩ hno hrun

/-- A run over `es` that began with nothing beyond the write total `n` and the read total `m` in the stages: for two
edges of its clock each user stays within what the stages held. -/
structure Pending (n m : Nat) (es : List EdgeIn) (r : Run) : Prop where
  inv : Inv r.s
  rst_eq : r.s.rst = false
  write : (wStages r.s).Unseen n (countC es)
  read : (rStages r.s).Unseen m (countP es)
  rt_le : countC es ≤ 2 → r.s.Rt ≤ n
  wt_le : countP es ≤ 2 → r.s.Wt ≤ m + r.s.cfg.fifo_depth

theorem ReadEffect.rt_le_of_view {w : BitVec 4} {s t : State} {n : Nat} (h : ReadEffect w s t) (hs : s.Rt ≤ n)
    (hview : viewWs s ≤ n) : t.Rt ≤ n := by
  cases h <;> omega

theorem WriteEffect.wt_le_of_view {w : BitVec 9} {s t : State} {m : Nat} (h : WriteEffect w s t)
    (hs : s.Wt ≤ m + s.cfg.fifo_depth) (hview : viewRs s ≤ m) : t.Wt ≤ m + s.cfg.fifo_depth := by
  cases h <;> omega

theorem Pending.edge {n m : Nat} {es : List EdgeIn} {e : EdgeIn} {r r' : Run} (h : Pending n m es r)
    (hn : edgeIsR e = false) (he : r.edge e = some r') : Pending n m (es ++ [e]) r' := by
  obtain ⟨hinv, hrst, hwrite, hread, hrt, hwt⟩ := h
  obtain ⟨hedge, -⟩ := Run.edge_some he
  have hrst' := (Run.edge_rst hn he).trans hrst
  have hcfg := Run.edge_cfg he
  cases hw : e.word with
  | c w =>
    obtain ⟨hC, hP⟩ := countC_snoc_c (es := es) hw
    obtain ⟨hwS, hrS⟩ := edgeC_stages hinv hw hrst hedge
    refine ⟨hinv.edge he, hrst', hC ▸ hwrite.shifts hwS, hP ▸ hread.waits hrS, fun hk => ?_, fun hk => ?_⟩
    · exact (edgeC_effect hinv hw hrst hedge).rt_le_of_view (hrt (by omega)) (hwrite.second (by omega))
    · rw [hcfg]
      exact hwS.total_eq.trans_le (hwt (hP ▸ hk))
  | p w =>
    obtain ⟨hC, hP⟩ := countP_snoc_p (es := es) hw
    obtain ⟨hrS, hwS⟩ := edgeP_stages hinv hw hrst hedge
    refine ⟨hinv.edge he, hrst', hC ▸ hwrite.waits hwS, hP ▸ hread.shifts hrS, fun hk => ?_, fun hk => ?_⟩
    · exact hrS.total_eq.trans_le (hrt (hC ▸ hk))
    · rw [hcfg]
      exact (edgeP_effect hinv hw hrst hedge).wt_le_of_view (hwt (by omega)) (hread.second (by omega))
  | r w => simp [edgeIsR, hw] at hn

/-- Until the second receiving edge is over each user stays within what the stages held at the start. -/
theorem pending_of_edges {n m : Nat} {es : List EdgeIn} {r0 r : Run} (h : Inv r0.s) (hr : r0.s.rst = false)
    (hn : viewWs1 r0.s ≤ n) (hm : viewRs1 r0.s ≤ m) (hno : noReset es = true) (hrun : Run.edges es r0 = some r) :
    Pending n m es r := by
  obtain ⟨hrs, hrs1, hrt, hws, hws1, hwt, -⟩ := h.counted.order
  exact Run.edges_keep (fun _ _ _ _ hpending hok he => hpending.edge (not_edgeIsR hok) he)
    ⟨h, hr, ⟨fun _ => hn, fun _ => hws.trans hn⟩, ⟨fun _ => hm, fun _ => hrs.trans hm⟩, fun _ => by omega,
      fun _ => by omega⟩ hno hrun

/-! The fourth edge of a user that tries at every edge. -/

/-- A list with more than `n` elements of a kind, cut at the one after the first `n`. -/
theorem exists_split_countP {α : Type} (p : α → Bool) (n : Nat) (xs : List α) (h : n < xs.countP p) :
    ∃ ys x zs, xs = ys ++ x :: zs ∧ ys.countP p = n ∧ p x = true := by
  induction xs generalizing n with
  | nil => simp at h
  | cons x xs ih =>
    by_cases hx : p x = true
    · cases n with
      | zero => exact ⟨[], x, xs, rfl, rfl, hx⟩
      | succ n =>
        rw [List.countP_cons_of_pos hx] at h
        obtain ⟨ys, y, zs, rfl, hys, hy⟩ := ih n (by omega)
        exact ⟨x :: ys, y, zs, rfl, by rw [List.countP_cons_of_pos hx, hys], hy⟩
    · rw [List.countP_cons_of_neg hx] at h
      obtain ⟨ys, y, zs, rfl, hys, hy⟩ := ih n h
      exact ⟨x :: ys, y, zs, rfl, by rw [List.countP_cons_of_neg hx, hys], hy⟩

theorem ReadEffect.rt_of_pop {w : BitVec 4} {s t : State} {n : Nat} (h : ReadEffect w s t) (hop : readOp w = .pop)
    (hview : n ≤ viewWs s) (hs : n ≤ s.Rt + 1) : n ≤ t.Rt := by
  cases h with
  | rnop hop' => simp [hop] at hop'
  | empty _ hnone hRt | byte b _ hsome _ hRt => omega

theorem WriteEffect.wt_of_push {w : BitVec 9} {s t : State} {n : Nat} (h : WriteEffect w s t)
    (hop : writeOp w ≠ .wnop) (hview : n ≤ viewRs s + s.cfg.fifo_depth) (hs : n ≤ s.Wt + 1) : n ≤ t.Wt := by
  cases h with
  | wnop hop' => exact absurd hop' hop
  | dropped d _ hfull _ hWt | accepted d _ hroom _ hWt => omega

/-- A list cut after its first `n` elements of a kind. -/
theorem exists_cut_countP {α : Type} (p : α → Bool) (n : Nat) (xs : List α) (h : n ≤ xs.countP p) :
    ∃ ys zs, xs = ys ++ zs ∧ ys.countP p = n := by
  cases n with
  | zero => exact ⟨[], xs, rfl, rfl⟩
  | succ n =>
    obtain ⟨ys, x, zs, rfl, hys, hx⟩ := exists_split_countP p n xs h
    exact ⟨ys ++ [x], zs, by simp, by simp [List.countP_append, hys, hx]⟩

/-- The totals never go back along a run. -/
theorem Run.Extends.totals_le {r0 r : Run} {es : List EdgeIn} (h : r0.Extends es r) :
    r0.s.Wt ≤ r.s.Wt ∧ r0.s.Rt ≤ r.s.Rt := by
  obtain ⟨-, -, -, as, bs, -, -, -, hWt, hRt⟩ := h
  omega

theorem noReset_append {xs ys : List EdgeIn} : noReset (xs ++ ys) = true ↔ noReset xs = true ∧ noReset ys = true := by
  rw [noReset, List.all_append, Bool.and_eq_true]
  rfl

theorem noReset_cons {e : EdgeIn} {es : List EdgeIn} :
    noReset (e :: es) = true ↔ edgeIsR e = false ∧ noReset es = true := by
  simp [noReset]

/-- A consumer that polls at every `EdgeC` has popped every byte accepted at the start but one it had yet to see, by
the fourth. -/
theorem rt_of_polls {n : Nat} {es : List EdgeIn} {r0 r : Run} (h : Inv r0.s) (hr : r0.s.rst = false)
    (hW : n ≤ r0.s.Wt) (hR : n ≤ r0.s.Rt + 1) (hno : noReset es = true) (hpolls : es.all polls = true)
    (hcount : 4 ≤ countC es) (hrun : Run.edges es r0 = some r) : n ≤ r.s.Rt := by
  obtain ⟨xs, e, ys, rfl, hxs, he⟩ := exists_split_countP edgeIsC 3 es hcount
  obtain ⟨w, hw⟩ := (edgeIsC_iff e).1 he
  obtain ⟨r1, hrun1, hrest⟩ := Run.edges_append.1 hrun
  obtain ⟨r2, hedge, hrun2⟩ := Run.edges_cons.1 hrest
  obtain ⟨hnoxs, hnorest⟩ := noReset_append.1 hno
  obtain ⟨-, hnoys⟩ := noReset_cons.1 hnorest
  have hpop : readOp w = .pop := by simpa [polls, hw] using List.all_eq_true.1 hpolls e (by simp)
  obtain ⟨hinv1, hr1, hwrite, -⟩ := crossing_of_edges h hr hW le_rfl hnoxs hrun1
  obtain ⟨-, hmono1⟩ := (Run.extends_of_edges h hnoxs hrun1).totals_le
  obtain ⟨-, hmono2⟩ := (Run.extends_of_edges (hinv1.edge hedge) hnoys hrun2).totals_le
  have heffect := edgeC_effect hinv1 hw hr1 (Run.edge_some hedge).1
  exact (heffect.rt_of_pop hpop (hwrite.second hxs.ge) (by omega)).trans hmono2

/-- A producer that pushes at every `EdgeP` has refilled every cell freed at the start but one it had yet to see, by
the fourth. -/
theorem wt_of_pushes {n : Nat} {es : List EdgeIn} {r0 r : Run} (h : Inv r0.s) (hr : r0.s.rst = false)
    (hR : n ≤ r0.s.Rt) (hW : n + r0.s.cfg.fifo_depth ≤ r0.s.Wt + 1) (hno : noReset es = true)
    (hpushes : es.all pushes = true) (hcount : 4 ≤ countP es) (hrun : Run.edges es r0 = some r) :
    n + r0.s.cfg.fifo_depth ≤ r.s.Wt := by
  obtain ⟨xs, e, ys, rfl, hxs, he⟩ := exists_split_countP edgeIsP 3 es hcount
  obtain ⟨w, hw⟩ := (edgeIsP_iff e).1 he
  obtain ⟨r1, hrun1, hrest⟩ := Run.edges_append.1 hrun
  obtain ⟨r2, hedge, hrun2⟩ := Run.edges_cons.1 hrest
  obtain ⟨hnoxs, hnorest⟩ := noReset_append.1 hno
  obtain ⟨-, hnoys⟩ := noReset_cons.1 hnorest
  have hpush : writeOp w ≠ .wnop := by simpa [pushes, hw] using List.all_eq_true.1 hpushes e (by simp)
  obtain ⟨hinv1, hr1, -, hread⟩ := crossing_of_edges h hr le_rfl hR hnoxs hrun1
  have hext := Run.extends_of_edges h hnoxs hrun1
  obtain ⟨hmono1, -⟩ := hext.totals_le
  obtain ⟨hmono2, -⟩ := (Run.extends_of_edges (hinv1.edge hedge) hnoys hrun2).totals_le
  have heffect := edgeP_effect hinv1 hw hr1 (Run.edge_some hedge).1
  have hseen : n ≤ viewRs r1.s := hread.second hxs.ge
  rw [← hext.cfg_eq] at hW ⊢
  exact (heffect.wt_of_push hpush (by omega) (by omega)).trans hmono2

/-! ### The two latencies (R39) -/

/-- The first edge of the forward case: the byte is accepted, and no stage holds it. -/
theorem push_to_empty {s : State} {e : EdgeIn} {w : BitVec 9} {d : Byte} {r : Run} (h : Inv s) (hr : s.rst = false)
    (hempty : s.Wt = s.Rt) (hroom : wfull s = false) (hw : e.word = .p w) (hop : writeOp w = .push d)
    (he : (Run.start s).edge e = some r) :
    r.accepted = [d] ∧ r.popped = [] ∧ r.s.Wt = s.Wt + 1 ∧ r.s.Rt = s.Wt ∧ viewWs1 r.s ≤ s.Wt := by
  obtain ⟨-, -, hrt, hws, hws1, -, -⟩ := h.counted.order
  obtain ⟨-, hwS⟩ := edgeP_stages h hw hr (Run.edge_some he).1
  have hfirst : viewWs1 r.s = viewWs1 s := hwS.first_eq
  have hlt := h.wt_lt_of_room hroom
  cases Run.moves_edgeP (r := Run.start s) h hw hr he with
  | idle _ _ _ _ _ hdrop =>
    rcases hdrop hr with hnone | hfull
    · simp [presented_push hw hop] at hnone
    · exact absurd hfull hlt.ne
  | push d' hpresented _ haccepted hpopped hWt hRt _ =>
    obtain rfl : d = d' := by simpa [presented_push hw hop] using hpresented
    exact ⟨haccepted, hpopped, hWt, hRt.trans hempty.symm, by omega⟩
  | pop b hpoll => simp [noPoll, hw] at hpoll

/-- Settles O52: no stage shows the byte to the first two POPs, the second stage shows it to the fourth, and the first
byte popped is the first accepted. -/
theorem pushedByteArrivesAtThirdOrFourthEdge : Obligations.PushedByteArrivesAtThirdOrFourthEdge := by
  intro s d e w es r h hr hempty hroom hw hop hno hrun
  obtain ⟨r1, hedge, hrun1⟩ := Run.edges_cons.1 hrun
  have hn : edgeIsR e = false := by simp [edgeIsR, hw]
  have h1 : Inv r1.s := Inv.edge (r := Run.start s) h hedge
  have hr1 : r1.s.rst = false := (Run.edge_rst hn hedge).trans hr
  obtain ⟨haccepted, hpopped, hWt, hRt, hfirst⟩ := push_to_empty h hr hempty hroom hw hop hedge
  obtain ⟨-, -, -, as, bs, has, hbs, -, -, hRt'⟩ := Run.extends_of_edges h1 hno hrun1
  have hc : Contents s.Wt r1 :=
    (contents_start hempty).moves h (Run.edge_cfg hedge) (Run.moves (r := Run.start s) h hn hedge)
  obtain ⟨-, -, hpopped_eq, -⟩ := hc.edges h1 hno hrun1
  rw [hpopped, List.nil_append] at hbs
  rw [haccepted] at has
  constructor
  · intro hcount
    have hle := (pending_of_edges h1 hr1 hfirst le_rfl hno hrun1).rt_le hcount
    rw [hbs, ← List.length_eq_zero_iff]
    omega
  · intro hpolls hcount
    have hge : s.Wt + 1 ≤ r.s.Rt := rt_of_polls h1 hr1 hWt.ge (by omega) hno hpolls hcount hrun1
    have hpos : r.popped.length ≠ 0 := by rw [hbs]; omega
    rw [hpopped_eq, List.head?_take, if_neg hpos, has]
    rfl

/-- The first edge of the reverse case: a cell is freed, and no stage shows it. -/
theorem pop_of_byte {s : State} {e : EdgeIn} {w : BitVec 4} {r : Run} (h : Inv s) (hr : s.rst = false)
    (hbyte : rempty s = false) (hw : e.word = .c w) (hop : readOp w = .pop) (he : (Run.start s).edge e = some r) :
    r.accepted = [] ∧ r.s.Wt = s.Wt ∧ r.s.Rt = s.Rt + 1 ∧ viewRs1 r.s ≤ s.Rt := by
  obtain ⟨hedge, hrec⟩ := Run.edge_some he
  obtain ⟨hwS, hrS⟩ := edgeC_stages h hw hr hedge
  have hfirst : viewRs1 r.s = viewRs1 s := hrS.first_eq
  obtain ⟨haccepted, -⟩ := Run.record_c (r := Run.start s) (t := r.s) hw hr
  have hlt := h.rt_lt_of_byte hbyte
  have hmore : s.Rt + 1 ≤ r.s.Rt := (edgeC_effect h hw hr hedge).rt_of_pop hop hlt le_rfl
  have hless : r.s.Rt ≤ s.Rt + 1 := by cases edgeC_effect h hw hr hedge <;> omega
  exact ⟨hrec ▸ haccepted, hwS.total_eq, by omega, hfirst.trans_le h.rs1_le_rt⟩

theorem length_presented {es : List EdgeIn} (h : es.all pushes = true) : (presented es).length = countP es := by
  induction es with
  | nil => rfl
  | cons e es ih =>
    rw [List.all_cons, Bool.and_eq_true] at h
    rw [presented_cons, List.length_append, ih h.2]
    have hpushes := h.1
    cases hw : e.word with
    | c w => simp [presented_c hw, countP, edgeIsP, hw]
    | p w =>
      rcases writeOp_cases w with ⟨d, hop⟩ | hop
      · simp [presented_push hw hop, countP, edgeIsP, hw, Nat.add_comm]
      · simp [pushes, hw, hop] at hpushes
    | r w => simp [pushes, hw] at hpushes

/-- Without a stage that shows a freed cell at the start, nothing is accepted at the first two `EdgeP`s. -/
theorem accepted_of_pending {n : Nat} {es : List EdgeIn} {r0 r : Run} (h : Inv r0.s) (hr : r0.s.rst = false)
    (hm : viewRs1 r0.s ≤ n) (hfull : r0.s.Wt = n + r0.s.cfg.fifo_depth) (hno : noReset es = true)
    (hcount : countP es ≤ 2) (hrun : Run.edges es r0 = some r) :
    r.accepted = r0.accepted ∧ r.s.Wt = r0.s.Wt := by
  obtain ⟨-, hcfg, -, as, -, has, -, -, hWt, -⟩ := Run.extends_of_edges h hno hrun
  have hle := (pending_of_edges h hr le_rfl hm hno hrun).wt_le hcount
  rw [hcfg] at hle
  have hnil : as = [] := List.length_eq_zero_iff.1 (by omega)
  subst hnil
  exact ⟨by simpa using has, hWt⟩

/-- Of a full queue with one cell freed, no stage showing it, the first byte accepted is the third or the fourth
presented: the edges are cut after the second and the fourth `EdgeP`. -/
theorem first_accepted_of_pushes {n : Nat} {es : List EdgeIn} {r0 r : Run} (h : Inv r0.s) (hr : r0.s.rst = false)
    (hm : viewRs1 r0.s ≤ n) (hfull : r0.s.Wt = n + r0.s.cfg.fifo_depth) (hfreed : n + 1 ≤ r0.s.Rt)
    (hnone : r0.accepted = []) (hno : noReset es = true) (hpushes : es.all pushes = true) (hcount : 4 ≤ countP es)
    (hrun : Run.edges es r0 = some r) :
    ∃ b, r.accepted.head? = some b ∧ (some b = (presented es)[2]? ∨ some b = (presented es)[3]?) := by
  obtain ⟨xs, us, rfl, hxs⟩ := exists_cut_countP edgeIsP 2 es (by unfold countP at hcount; omega)
  rw [countP, List.countP_append, hxs] at hcount
  obtain ⟨ys, zs, rfl, hys⟩ := exists_cut_countP edgeIsP 2 us (by omega)
  obtain ⟨r2, hrun2, hrest⟩ := Run.edges_append.1 hrun
  obtain ⟨r3, hrun3, hrun4⟩ := Run.edges_append.1 hrest
  obtain ⟨hnoxs, hnorest⟩ := noReset_append.1 hno
  obtain ⟨hnoys, hnozs⟩ := noReset_append.1 hnorest
  simp only [List.all_append, Bool.and_eq_true] at hpushes
  obtain ⟨hpxs, hpys, -⟩ := hpushes
  have h2 := h.edges hrun2
  obtain ⟨hnone2, hWt2⟩ := accepted_of_pending h hr hm hfull hnoxs hxs.le hrun2
  obtain ⟨-, -, -, as, -, has, -, hsub, hWt3, -⟩ := Run.extends_of_edges h2 hnoys hrun3
  obtain ⟨-, -, -, bs, -, hbs, -, -, -, -⟩ := Run.extends_of_edges (h2.edges hrun3) hnozs hrun4
  have hgrown : n + 1 + r0.s.cfg.fifo_depth ≤ r3.s.Wt :=
    wt_of_pushes h hr hfreed (by omega) (noReset_append.2 ⟨hnoxs, hnoys⟩) (by simp [hpxs, hpys])
      (by simp [countP, List.countP_append, hxs, hys]) (Run.edges_append.2 ⟨r2, hrun2, hrun3⟩)
  obtain ⟨a1, a2, hpresented2⟩ := List.length_eq_two.1 ((length_presented hpxs).trans hxs)
  obtain ⟨a3, a4, hpresented4⟩ := List.length_eq_two.1 ((length_presented hpys).trans hys)
  rw [presented_append, presented_append, hpresented2, hpresented4]
  rw [hbs, has, hnone2, hnone, List.nil_append]
  cases as with
  | nil => simp at hWt3; omega
  | cons b as =>
    have hmem : b ∈ [a3, a4] := hpresented4 ▸ hsub.subset List.mem_cons_self
    exact ⟨b, rfl, by simpa using hmem⟩

/-- Settles O53: no stage shows the freed cell to the first two PUSHes, and the second stage shows it to the fourth. -/
theorem freedCellArrivesAtThirdOrFourthEdge : Obligations.FreedCellArrivesAtThirdOrFourthEdge := by
  intro s e w es r h hr hfull hw hop hbyte hno hrun
  obtain ⟨r1, hedge, hrun1⟩ := Run.edges_cons.1 hrun
  have hn : edgeIsR e = false := by simp [edgeIsR, hw]
  have h1 : Inv r1.s := Inv.edge (r := Run.start s) h hedge
  have hr1 : r1.s.rst = false := (Run.edge_rst hn hedge).trans hr
  have hcfg1 : r1.s.cfg = s.cfg := Run.edge_cfg hedge
  obtain ⟨hnone, hWt, hRt, hfirst⟩ := pop_of_byte h hr hbyte hw hop hedge
  have hfull1 : r1.s.Wt = s.Rt + r1.s.cfg.fifo_depth := by rw [hWt, hfull, hcfg1]
  constructor
  · intro hcount
    obtain ⟨haccepted, -⟩ := accepted_of_pending h1 hr1 hfirst hfull1 hno hcount hrun1
    exact haccepted.trans hnone
  · intro hpushes hcount
    exact first_accepted_of_pushes h1 hr1 hfirst hfull1 hRt.ge hnone hno hpushes hcount hrun1

end Sys2Proof.Machine
end

section
/-! PROOFS. The family of 30_encoding.md: the port words and their operations, the operations a step runs, and the
output ports. -/

namespace Sys2Proof.Machine

/-! ### The operation of a slot by its enable bit (R54) -/

theorem qdecOp_of_step {w : BitVec 4} (h : w.getLsbD 3 = true) :
    qdecOp w = .qstep (w.getLsbD 2) (w.getLsbD 1) := if_pos h

theorem qdecOp_of_no_step {w : BitVec 4} (h : w.getLsbD 3 = false) : qdecOp w = .qnop := by rw [qdecOp, h]; rfl

theorem readOp_of_rd_en {w : BitVec 4} (h : w.getLsbD 0 = true) : readOp w = .pop := if_pos h

theorem readOp_of_no_rd_en {w : BitVec 4} (h : w.getLsbD 0 = false) : readOp w = .rnop := by rw [readOp, h]; rfl

theorem writeOp_of_wr_en {w : BitVec 9} (h : w.getLsbD 8 = true) : writeOp w = .push (w.extractLsb' 0 8) := if_pos h

theorem writeOp_of_no_wr_en {w : BitVec 9} (h : w.getLsbD 8 = false) : writeOp w = .wnop := by rw [writeOp, h]; rfl

/-! ### Words from their fields (R51, R52) -/

theorem qdecOp_wordC (s a b r : Bool) : qdecOp (wordC s a b r) = if s then .qstep a b else .qnop := by
  cases s <;> cases a <;> cases b <;> cases r <;> rfl

theorem readOp_wordC (s a b r : Bool) : readOp (wordC s a b r) = if r then .pop else .rnop := by
  cases s <;> cases a <;> cases b <;> cases r <;> rfl

theorem writeOp_wordP (en : Bool) (d : Byte) : writeOp (wordP en d) = if en then .push d else .wnop := by
  have hen : (wordP en d).getLsbD 8 = en := by rw [wordP, BitVec.getLsbD_append]; cases en <;> rfl
  have hdata : (wordP en d).extractLsb' 0 8 = d := BitVec.extractLsb'_append_eq_right
  rw [writeOp, hen, hdata]

theorem decode_wordC (s a b r : Bool) :
    decode (.c (wordC s a b r)) = .ok (.c (if s then .qstep a b else .qnop) (if r then .pop else .rnop)) := by
  rw [decode, qdecOp_wordC, readOp_wordC]

theorem decode_wordP (en : Bool) (d : Byte) :
    decode (.p (wordP en d)) = .ok (.p (if en then .push d else .wnop)) := by
  rw [decode, writeOp_wordP]

/-- A format C word is its four fields. -/
theorem wordC_bits (w : BitVec 4) : wordC (w.getLsbD 3) (w.getLsbD 2) (w.getLsbD 1) (w.getLsbD 0) = w := by
  revert w; decide

/-- Without `step` only `rd_en` is read. -/
theorem wordC_rd_en (w : BitVec 4) : wordC false false false (w.getLsbD 0) = w &&& 0b0001#4 := by
  revert w; decide

/-- A format P word is its two fields. -/
theorem wordP_bits (w : BitVec 9) : wordP (w.getLsbD 8) (w.extractLsb' 0 8) = w := by
  have hen : BitVec.ofBool (w.getLsbD 8) = w.extractLsb' 8 1 := by
    ext i hi
    obtain rfl : i = 0 := by omega
    simp
  rw [wordP, hen]
  exact BitVec.extractLsb'_append_extractLsb'

/-! ### The slots of a line (R54) -/

theorem qdecOp_slot (w : BitVec 4) : (qdecOp w).slot = .qdec := by
  unfold qdecOp; split <;> rfl

theorem readOp_slot (w : BitVec 4) : (readOp w).slot = .read := by
  unfold readOp; split <;> rfl

theorem writeOp_slot (w : BitVec 9) : (writeOp w).slot = .write := by
  unfold writeOp; split <;> rfl

theorem qdecFields_of_slot {i : Instr} (h : i.slot = .qdec) :
    ∃ s a b, qdecFields i = some (s, a, b) ∧ i = if s then .qstep a b else .qnop := by
  cases i with
  | qstep a b => exact ⟨true, a, b, rfl, rfl⟩
  | qnop => exact ⟨false, false, false, rfl, rfl⟩
  | reset | pop | rnop | push _ | wnop => cases h

theorem readField_of_slot {i : Instr} (h : i.slot = .read) :
    ∃ r, readField i = some r ∧ i = if r then .pop else .rnop := by
  cases i with
  | pop => exact ⟨true, rfl, rfl⟩
  | rnop => exact ⟨false, rfl, rfl⟩
  | reset | qstep _ _ | qnop | push _ | wnop => cases h

theorem qdecFields_of_ne {i : Instr} (h : i.slot ≠ .qdec) : qdecFields i = none := by
  cases i with
  | qstep _ _ | qnop => exact absurd rfl h
  | reset | pop | rnop | push _ | wnop => rfl

theorem readField_of_ne {i : Instr} (h : i.slot ≠ .read) : readField i = none := by
  cases i with
  | pop | rnop => exact absurd rfl h
  | reset | qstep _ _ | qnop | push _ | wnop => rfl

theorem readField_readOp (w : BitVec 4) : readField (readOp w) = some (w.getLsbD 0) := by
  cases h : w.getLsbD 0 with
  | true => rw [readOp_of_rd_en h]; rfl
  | false => rw [readOp_of_no_rd_en h]; rfl

theorem wf_c_iff (qop rop : Instr) : (Line.c qop rop).wf = true ↔ qop.slot = .qdec ∧ rop.slot = .read := by
  simp [Line.wf]

theorem wf_p_iff (wop : Instr) : (Line.p wop).wf = true ↔ wop.slot = .write := by simp [Line.wf]

theorem wf_r_iff (op : Instr) : (Line.r op).wf = true ↔ op.slot = .reset := by simp [Line.wf]

theorem encodeLine_c {qop rop : Instr} {s a b r : Bool} (hq : qdecFields qop = some (s, a, b))
    (hr : readField rop = some r) : encodeLine (.c qop rop) = some (.c (wordC s a b r)) := by
  simp [encodeLine, hq, hr]

/-! ### Decoding and encoding (R54, R62, R64) -/

/-- An operation's own word carries it in its slot, beside the NOP of an omitted one. -/
theorem decode_encode (i : Instr) : ∃ l, decode (encode i) = .ok l ∧ l.wf = true ∧ l.opAt i.slot = some i := by
  cases i with
  | reset => exact ⟨.r .reset, rfl, rfl, rfl⟩
  | qstep a b => exact ⟨.c (.qstep a b) .rnop, decode_wordC true a b false, rfl, rfl⟩
  | qnop => exact ⟨.c .qnop .rnop, decode_wordC false false false false, rfl, rfl⟩
  | pop => exact ⟨.c .qnop .pop, decode_wordC false false false true, rfl, rfl⟩
  | rnop => exact ⟨.c .qnop .rnop, decode_wordC false false false false, rfl, rfl⟩
  | push d => exact ⟨.p (.push d), decode_wordP true d, rfl, rfl⟩
  | wnop => exact ⟨.p .wnop, decode_wordP false 0#8, rfl, rfl⟩

/-- A well-formed line has a word, and the word carries the line. -/
theorem decode_encodeLine {l : Line} (h : l.wf = true) : ∃ pw, encodeLine l = some pw ∧ decode pw = .ok l := by
  cases l with
  | c qop rop =>
    obtain ⟨hq, hr⟩ := (wf_c_iff qop rop).1 h
    obtain ⟨s, a, b, hqf, rfl⟩ := qdecFields_of_slot hq
    obtain ⟨r, hrf, rfl⟩ := readField_of_slot hr
    exact ⟨_, encodeLine_c hqf hrf, decode_wordC s a b r⟩
  | p wop =>
    have hslot := (wf_p_iff wop).1 h
    cases wop with
    | push d => exact ⟨_, rfl, decode_wordP true d⟩
    | wnop => exact ⟨_, rfl, decode_wordP false 0#8⟩
    | reset | qstep _ _ | qnop | pop | rnop => cases hslot
  | r op =>
    have hslot := (wf_r_iff op).1 h
    cases op with
    | reset => exact ⟨_, rfl, rfl⟩
    | qstep _ _ | qnop | pop | rnop | push _ | wnop => cases hslot

/-- A line with an operation outside its slot has no word. -/
theorem encodeLine_of_not_wf {l : Line} (h : l.wf = false) : encodeLine l = none := by
  have hwf : ¬ l.wf = true := by simp [h]
  cases l with
  | c qop rop =>
    rw [wf_c_iff, not_and_or] at hwf
    rcases hwf with hq | hr
    · simp [encodeLine, qdecFields_of_ne hq]
    · simp [encodeLine, readField_of_ne hr]
  | p wop => exact if_neg (mt (wf_p_iff wop).2 hwf)
  | r op => exact if_neg (mt (wf_r_iff op).2 hwf)

/-- A decoded line is well formed. -/
theorem wf_of_decode {pw : PortWord} {l : Line} (h : decode pw = .ok l) : l.wf = true := by
  cases pw with
  | c w => cases h; exact (wf_c_iff _ _).2 ⟨qdecOp_slot w, readOp_slot w⟩
  | p w => cases h; exact (wf_p_iff _).2 (writeOp_slot w)
  | r w =>
    rcases wordR_cases w with rfl | rfl
    · cases h; rfl
    · cases h

/-- The line of a format C word is encoded as the word, its levels 0 where `step` is 0. -/
theorem encodeLine_qdecOp_readOp (w : BitVec 4) : encodeLine (.c (qdecOp w) (readOp w)) =
    some (.c (if w.getLsbD 3 then w else w &&& 0b0001#4)) := by
  have hr := readField_readOp w
  cases hstep : w.getLsbD 3 with
  | true =>
    have hw := wordC_bits w
    rw [hstep] at hw
    rw [qdecOp_of_step hstep, encodeLine_c rfl hr, hw]
    rfl
  | false =>
    rw [qdecOp_of_no_step hstep, encodeLine_c rfl hr, wordC_rd_en]
    rfl

/-- The line of a format P word is encoded as the word, all 0 where `wr_en` is 0. -/
theorem encodeLine_writeOp (w : BitVec 9) : encodeLine (.p (writeOp w)) =
    some (.p (if w.getLsbD 8 then w else 0#9)) := by
  cases hen : w.getLsbD 8 with
  | true =>
    have hw := wordP_bits w
    rw [hen] at hw
    rw [writeOp_of_wr_en hen]
    exact congrArg (some ∘ PortWord.p) hw
  | false =>
    rw [writeOp_of_no_wr_en hen]
    rfl

/-- Settles O3: word by word, from the fields each format reads. -/
theorem decodeAndEncodeAgree : Obligations.DecodeAndEncodeAgree := by
  refine ⟨decode_encode, fun l => decode_encodeLine, fun l => encodeLine_of_not_wf,
    fun pw l h => ⟨wf_of_decode h, ?_⟩⟩
  cases pw with
  | c w => cases h; exact ⟨_, encodeLine_qdecOp_readOp w, rfl⟩
  | p w => cases h; exact ⟨_, encodeLine_writeOp w, rfl⟩
  | r w =>
    rcases wordR_cases w with rfl | rfl
    · cases h; exact ⟨_, rfl, rfl⟩
    · cases h

/-- Settles O1: each word from its fields. -/
theorem listedWordsDecode : Obligations.ListedWordsDecode :=
  ⟨decode_wordC false false false false, decode_wordC false false false true, decode_wordC false true true false,
    decode_wordC true false true false, decode_wordC true true false true, decode_wordP false 0#8,
    decode_wordP false 0b10100101#8, decode_wordP true 0b10100101#8, rfl, rfl⟩

/-! ### The operation map (R54) -/

/-- A word that matches a row has the row's bits wherever the mask has a 1. -/
theorem getLsbD_of_match {n i : Nat} {w mask bits : BitVec n} (h : w &&& mask = bits) (hi : mask.getLsbD i = true) :
    w.getLsbD i = bits.getLsbD i := by
  rw [← h, BitVec.getLsbD_and, hi, Bool.and_true]

/-- Settles O2: a row's match gives the one bit its mask reads, and the slot's operation is chosen by that bit. -/
theorem operationMapByMaskAndMatch : Obligations.OperationMapByMaskAndMatch := by
  refine ⟨fun w h => ?_, fun w => ⟨qdecOp w, readOp w, rfl, fun h => ?_, fun h => ?_, fun h => ?_, fun h => ?_⟩,
    fun w => ⟨writeOp w, rfl, fun h => ?_, fun h => ?_⟩⟩
  · rcases wordR_cases w with rfl | rfl
    · rfl
    · cases h
  · exact qdecOp_of_step (getLsbD_of_match h rfl)
  · exact qdecOp_of_no_step (getLsbD_of_match h rfl)
  · exact readOp_of_rd_en (getLsbD_of_match h rfl)
  · exact readOp_of_no_rd_en (getLsbD_of_match h rfl)
  · exact writeOp_of_wr_en (getLsbD_of_match h rfl)
  · exact writeOp_of_no_wr_en (getLsbD_of_match h rfl)

/-! ### The step (R51 to R53) -/

section
variable {w : PortWord} {e : EdgeIn} {s : State}

theorem applyWord_of_decode_c {qop rop : Instr} (hd : decode w = .ok (.c qop rop)) (hr : s.rst = false) :
    applyWord w s = andThen (exec qop s) (exec rop) := by
  simp [applyWord, hd, hr, execLine]

theorem applyWord_of_decode_p {wop : Instr} (hd : decode w = .ok (.p wop)) (hr : s.rst = false) :
    applyWord w s = exec wop s := by
  simp [applyWord, hd, hr, execLine]

theorem applyWord_of_decode_r {op : Instr} (hd : decode w = .ok (.r op)) :
    applyWord w s = exec op (s.setRst true) := by
  simp [applyWord, hd, execLine]

theorem applyWord_of_decode_error {r : Reject} (hd : decode w = .error r) :
    applyWord w s = .next (s.setRst false) := by
  simp [applyWord, hd]

/-- While the reset pin is 1 a clock edge takes place, and notes its draw alone. -/
theorem applyEdge_held (hr : s.rst = true) (hn : edgeIsR e = false) : applyEdge e s = .next (s.setDraw e.stale) := by
  rw [applyEdge]
  cases hw : e.word with
  | c w => exact applyWord_c_held w _ hr
  | p w => exact applyWord_p_held w _ hr
  | r w => simp [edgeIsR, hw] at hn

end

/-- Settles O4: under valid parameters a step is its next edge, whose word runs what it decodes to. -/
theorem stepRunsTheDecodedOperations : Obligations.StepRunsTheDecodedOperations := by
  refine fun s => ⟨s.takeEdge_cons, s.takeEdge_nil, fun hv e he => ?_⟩
  rw [step_eq s hv, he]
  have hpin : (s.takeEdge.setDraw e.stale).rst = s.rst := s.takeEdge_rst
  refine ⟨fun qop rop hd hr => ?_, fun wop hd hr => ?_, fun op hd => ?_, fun hd => ?_, fun hr hn => ?_⟩
  · exact applyWord_of_decode_c hd (hpin.trans hr)
  · exact applyWord_of_decode_p hd (hpin.trans hr)
  · exact applyWord_of_decode_r hd
  · exact applyWord_of_decode_error hd
  · exact applyEdge_held (s.takeEdge_rst.trans hr) hn

/-! ### The output ports (R50, R58, R59) -/

/-- The Message a QSTEP leaves in the record is the one it returns. -/
theorem exec_qstep_evt {a b : Bool} {s t : State} (h : exec (.qstep a b) s = .next t) : t.evt = qstepResult s a b := by
  change execQstep a b s = .next t at h
  unfold execQstep at h
  split at h
  · cases h; rfl
  · cases h
    rename_i hkept
    exact (if_neg hkept).symm

/-- An output of the event ports has a value exactly where the Message has. -/
theorem isSome_iff_map_eq_some {α β : Type} (o : Option α) (f : α → β) :
    o.isSome = true ↔ ∃ y, o.map f = some y := by
  rw [← Option.isSome_map (f := f), Option.isSome_iff_exists]

theorem rdEmpty_of_released {s : State} (h : s.rst = false) : rdEmpty s = rempty s := by
  rw [rdEmpty, h, Bool.false_or]

theorem rdData_of_empty {s : State} (h : rdEmpty s = true) : rdData s = none := if_pos h

theorem rdData_of_not_empty {s : State} (h : rdEmpty s = false) : rdData s = s.mem.read (readAddr s) := by
  simp [rdData, h]

/-- What a POP returns is what the read ports show before its edge. -/
theorem exec_pop_rd {s t : State} (hr : s.rst = false) (h : exec .pop s = .next t) :
    (rdEmpty s = true → t.rd = .empty ∧ rdData s = none) ∧
    (rdEmpty s = false → ∃ b, rdData s = some b ∧ t.rd = .byte b) := by
  rcases exec_pop_next h with ⟨he, rfl⟩ | ⟨b, he, hb, rfl⟩
  · rw [← rdEmpty_of_released hr] at he
    exact ⟨fun _ => ⟨rfl, rdData_of_empty he⟩, fun hne => by simp [he] at hne⟩
  · rw [← rdEmpty_of_released hr] at he
    exact ⟨fun hne => by simp [he] at hne, fun _ => ⟨b, (rdData_of_not_empty he).trans hb, rfl⟩⟩

/-- RNOP moves nothing the read ports show but `rq2_wgray`. -/
theorem exec_rnop_ports {s t : State} (h : exec .rnop s = .next t) :
    t.rst = s.rst ∧ (t.rq2_wgray = s.rq2_wgray → rdEmpty t = rdEmpty s ∧ rdData t = rdData s) := by
  cases h
  refine ⟨rfl, fun (hq : s.rq1_wgray = s.rq2_wgray) => ?_⟩
  have he : rdEmpty (s.setRd .noCall).shiftC = rdEmpty s := by simp [rdEmpty, rempty, hq]
  exact ⟨he, by rw [rdData, he]; rfl⟩

/-- Settles O34: the ports are the results, read before the edge. -/
theorem portsShowTheResults : Obligations.PortsShowTheResults := by
  refine fun s hr => ⟨fun a b t h => ?_, fun a b => rfl, fun x a b => ⟨?_, ?_, ?_⟩,
    fun t => exec_pop_rd hr, fun t h => ?_⟩
  · rw [exec_qstep_evt h, evtPort, hr]; rfl
  · exact isSome_iff_map_eq_some _ _
  · exact isSome_iff_map_eq_some _ _
  · exact isSome_iff_map_eq_some _ _
  · obtain ⟨hrst, hports⟩ := exec_rnop_ports h
    exact ⟨hrst.trans hr, hports⟩

end Sys2Proof.Machine
end

section
/-! PROOFS. The family of 40_qdec.md: the effect of an evaluation, what one event does to the decoder and adds to its
record, and a turn: the stretch of a run that begins with an accepted transition. -/

namespace Sys2Proof.Machine

/-! ### Levels, the lookup and the Message (R55, R76, R77) -/

theorem inputState_inj {a b x y : Bool} : inputState a b = inputState x y ↔ a = x ∧ b = y := by
  revert a b x y; decide

/-- Channels apart are neither both low nor both high. -/
theorem inputState_ne_of_ne {x y z : Bool} (h : x ≠ y) : inputState x y ≠ inputState z z := by
  revert x y z; decide

theorem inputState_ne_rest {x y : Bool} (h : x ≠ y) : inputState x y ≠ restState :=
  inputState_ne_of_ne (z := false) h

theorem emission_rest (c : Config) (q : BitVec 2) : emission c q restState = evtMessage c (dirFrom c q) := if_pos rfl

theorem emission_of_ne_rest (c : Config) (q : BitVec 2) {new : BitVec 2} (h : new ≠ restState) :
    emission c q new = none := if_neg h

theorem dirFrom_10 (c : Config) : dirFrom c 0b10#2 = c.dir_from_10 := rfl

theorem dirFrom_01 (c : Config) : dirFrom c 0b01#2 = c.dir_from_01 := rfl

theorem dirFrom_11 (c : Config) : dirFrom c 0b11#2 = c.dir_from_11 := rfl

/-- The entry of a state with the channels apart is chosen by channel A. -/
theorem dirFrom_inputState (c : Config) {x y : Bool} (h : x ≠ y) :
    dirFrom c (inputState x y) = if x then c.dir_from_10 else c.dir_from_01 := by
  obtain rfl := Bool.eq_not.2 h.symm
  cases x with
  | true => exact dirFrom_10 c
  | false => exact dirFrom_01 c

/-- Settles O16: the Message and the ports that carry its three fields. -/
theorem eventMessages : Obligations.EventMessages := by
  refine ⟨fun c => ⟨rfl, rfl, rfl⟩, fun s x a b m h => ?_, rfl, rfl⟩
  simp [evtDomain, evtId, evtData, h]

/-! ### The operations (R74, R75, R78) -/

theorem qdecOp_eq_qstep_iff {w : BitVec 4} {a b : Bool} :
    qdecOp w = .qstep a b ↔ w.getLsbD 3 = true ∧ w.getLsbD 2 = a ∧ w.getLsbD 1 = b := by
  cases h : w.getLsbD 3 with
  | true => simp [qdecOp_of_step h]
  | false => simp [qdecOp_of_no_step h]

/-- Settles O14: an accepted transition, or a kept state with the timer run down. -/
theorem qstepFollowsItsRule : Obligations.QstepFollowsItsRule := by
  refine fun s a b => ⟨fun w hstep ha hb => qdecOp_eq_qstep_iff.2 ⟨hstep, ha, hb⟩,
    fun hchanged hopen => exec_qstep_accepted s a b hchanged hopen, fun hkept => ?_⟩
  change exec (.qstep a b) s = .next (s.setQdec s.q (countDown s.db_cnt) none)
  rw [countDown_eq]
  exact exec_qstep_kept s a b hkept

/-- Settles O15: the levels are not read, and the timer runs down. -/
theorem qnopFollowsItsRule : Obligations.QnopFollowsItsRule :=
  fun _ => ⟨fun _ h => qdecOp_of_no_step h, rfl⟩

/-- Settles O17: `emission`, by the state just left. -/
theorem emissionRule : Obligations.EmissionRule := by
  refine ⟨fun s a b hchanged hopen => ⟨_, exec_qstep_accepted s a b hchanged hopen, rfl,
    fun hne => emission_of_ne_rest _ _ hne, ?_⟩, rfl, rfl, rfl⟩
  have hreturn (hrest : inputState a b = restState) :
      emission s.cfg s.q (inputState a b) = evtMessage s.cfg (dirFrom s.cfg s.q) := if_pos hrest
  refine ⟨fun hrest hq => ?_, fun hrest hq => ?_, fun hrest hq => ?_⟩
  · exact (hreturn hrest).trans (by rw [hq, dirFrom_10])
  · exact (hreturn hrest).trans (by rw [hq, dirFrom_01])
  · exact (hreturn hrest).trans (by rw [hq, dirFrom_11])

/-- The lookup entry in the cell of R78 for `q` and `new`: one of the state left on a return to rest, else none. -/
def cellEntry (c : Config) (q new : BitVec 2) : Option Dir := if new = restState then dirFrom c q else none

theorem emission_eq_evtMessage (c : Config) (q new : BitVec 2) :
    emission c q new = evtMessage c (cellEntry c q new) := by
  unfold emission cellEntry
  split <;> rfl

/-- On the diagonal of the table nothing is returned: the rest state has no entry. -/
theorem cellEntry_self (c : Config) (q : BitVec 2) : cellEntry c q q = none := by
  unfold cellEntry
  split
  · rename_i h; rw [h]; rfl
  · rfl

theorem bitVec2_cases (q : BitVec 2) : q = 0b00#2 ∨ q = 0b01#2 ∨ q = 0b10#2 ∨ q = 0b11#2 := by
  revert q; decide

/-- Every cell of R78 stores `new` and returns the Message of its entry. -/
theorem mem_transitionTable (c : Config) (q new : BitVec 2) : (q, new, new, cellEntry c q new) ∈ transitionTable c := by
  rcases bitVec2_cases q with rfl | rfl | rfl | rfl <;>
    rcases bitVec2_cases new with rfl | rfl | rfl | rfl <;>
    simp [transitionTable, cellEntry, restState, dirFrom]

/-- Settles O18: the cell of `q` and `new`; on the diagonal, as with the gate closed, the state is kept. -/
theorem qstep_transitionTable : Obligations.TransitionTable := by
  refine fun s a b => ⟨fun hopen => ?_, fun hclosed => ⟨_, exec_qstep_kept s a b (.inr hclosed), rfl, rfl, rfl⟩⟩
  have hcell := mem_transitionTable s.cfg s.q (inputState a b)
  by_cases hsame : inputState a b = s.q
  · refine ⟨_, none, exec_qstep_kept s a b (.inl hsame), ?_, rfl, by simp [hopen]⟩
    rw [hsame, cellEntry_self] at hcell
    exact hsame ▸ hcell
  · exact ⟨_, _, exec_qstep_accepted s a b hsame hopen, hcell, emission_eq_evtMessage _ _ _, (if_neg hsame).symm⟩

/-! ### What an event does to the decoder (R73, R74, R75) -/

/-- What an event does to the decoder while the reset pin is 0: an accepted transition, or a kept state with the timer
counting the `EdgeC`s, and then why no transition was accepted. -/
inductive DecoderEffect (e : EdgeIn) (s t : State) : Prop
  | accepted (a b : Bool) (heval : evaluates a b e = true) (hchanged : inputState a b ≠ s.q) (hopen : s.db_cnt = 0)
      (hq : t.q = inputState a b) (hcnt : t.db_cnt = s.cfg.W - 1) (hevt : t.evt = emission s.cfg s.q (inputState a b))
  | kept (hwhy : ∀ a b, evaluates a b e = true → inputState a b = s.q ∨ s.db_cnt ≠ 0)
      (hq : t.q = s.q) (hcnt : t.db_cnt = s.db_cnt - countC [e]) (hevt : edgeIsC e = true → t.evt = none)

theorem evaluates_iff {a b : Bool} {e : EdgeIn} :
    evaluates a b e = true ↔ ∃ w, e.word = .c w ∧ qdecOp w = .qstep a b := by
  cases hw : e.word <;> simp [evaluates, hw]

theorem countC_snoc (es : List EdgeIn) (e : EdgeIn) : countC (es ++ [e]) = countC es + countC [e] :=
  List.countP_append

section
variable {e : EdgeIn} {s t : State}

theorem edgeIsC_of_evaluates {a b : Bool} (h : evaluates a b e = true) : edgeIsC e = true := by
  obtain ⟨w, hw, -⟩ := evaluates_iff.1 h
  exact (edgeIsC_iff e).2 ⟨w, hw⟩

theorem countC_of_evaluates {a b : Bool} (h : evaluates a b e = true) : countC [e] = 1 :=
  List.countP_singleton.trans (if_pos (edgeIsC_of_evaluates h))

/-- A moved `q` was evaluated with the gate open, unless the reset pin moved. -/
theorem evaluates_of_q_ne (hn : edgeIsR e = false) (he : applyEdge e s = .next t) (hne : t.q ≠ s.q) :
    ∃ a b, evaluates a b e = true ∧ t.q = inputState a b ∧ s.db_cnt = 0 := by
  rcases applyEdge_q_ne he hne with hw | ⟨a, b, heval, hq, hopen, -⟩
  · simp [edgeIsR, hw] at hn
  · exact ⟨a, b, heval, hq, hopen⟩

theorem edgeC_decoder {w : BitVec 4} (hw : e.word = .c w) (hr : s.rst = false) (he : applyEdge e s = .next t) :
    DecoderEffect e s t := by
  obtain ⟨u, hu, ht⟩ := edgeC_next hw hr he
  obtain ⟨-, hq, hcnt, -, hevt⟩ := (decoderPart_eq_iff t u).1 (exec_readOp_decoderPart w u t ht)
  by_cases haccept : ∃ a b, qdecOp w = .qstep a b ∧ inputState a b ≠ s.q ∧ s.db_cnt = 0
  · obtain ⟨a, b, hop, hchanged, hopen⟩ := haccept
    rw [hop, exec_qstep_accepted (s.setDraw e.stale) a b hchanged hopen] at hu
    cases hu
    exact .accepted a b (evaluates_iff.2 ⟨w, hw, hop⟩) hchanged hopen hq hcnt hevt
  · obtain ⟨q, n, ev, hx, ⟨rfl, rfl, rfl⟩ | ⟨a, b, hop, rfl, hchanged, hopen, -⟩⟩ :=
      exec_qdecOp w (s.setDraw e.stale)
    · rw [hx] at hu
      cases hu
      refine .kept (fun a b heval => ?_) hq (by simpa [countC, edgeIsC, hw] using hcnt) fun _ => hevt
      obtain ⟨w', hw', hop⟩ := evaluates_iff.1 heval
      obtain rfl : w = w' := by simpa [hw] using hw'
      by_contra hno
      obtain ⟨hchanged, hopen⟩ := not_or.1 hno
      exact haccept ⟨a, b, hop, hchanged, not_not.1 hopen⟩
    · exact absurd ⟨a, b, hop, hchanged, hopen⟩ haccept

theorem edgeP_decoder {w : BitVec 9} (hw : e.word = .p w) (he : applyEdge e s = .next t) : DecoderEffect e s t := by
  obtain ⟨hq, hcnt, -⟩ := edgeP_frame hw he
  exact .kept (by simp [evaluates, hw]) hq (by simpa [countC, edgeIsC, hw] using hcnt) (by simp [edgeIsC, hw])

theorem applyEdge_decoder (hr : s.rst = false) (hn : edgeIsR e = false) (he : applyEdge e s = .next t) :
    DecoderEffect e s t := by
  cases hw : e.word with
  | c w => exact edgeC_decoder hw hr he
  | p w => exact edgeP_decoder hw he
  | r w => simp [edgeIsR, hw] at hn

end

/-- Settles O20: the two effects of an `EdgeC`, by the bits of its word. -/
theorem timerAtEveryEdgeC : Obligations.TimerAtEveryEdgeC := by
  intro s t w d hr he
  cases edgeC_decoder rfl hr he with
  | accepted a b heval hchanged hopen _ hcnt _ =>
    obtain ⟨_, ⟨⟩, hop⟩ := evaluates_iff.1 heval
    obtain ⟨hstep, rfl, rfl⟩ := qdecOp_eq_qstep_iff.1 hop
    rw [hcnt]
    exact (if_pos ⟨hstep, hchanged, hopen⟩).symm
  | kept hwhy _ hcnt _ =>
    have hno : ¬ (w.getLsbD 3 = true ∧ inputState (w.getLsbD 2) (w.getLsbD 1) ≠ s.q ∧ s.db_cnt = 0) := by
      rintro ⟨hstep, hchanged, hopen⟩
      exact (hwhy _ _ (evaluates_iff.2 ⟨w, rfl, qdecOp_of_step hstep⟩)).elim hchanged (· hopen)
    calc t.db_cnt = s.db_cnt - 1 := hcnt
      _ = countDown s.db_cnt := (countDown_eq _).symm
      _ = _ := (if_neg hno).symm

/-- Settles O22: only an accepted transition returns a Message, and only where it stores the rest state. -/
theorem onlyAReturnToRestEmits : Obligations.OnlyAReturnToRestEmits := by
  intro e s t hC hr he hsome
  obtain ⟨w, hw⟩ := (edgeIsC_iff e).1 hC
  cases edgeC_decoder hw hr he with
  | kept _ _ _ hevt => exact absurd (hevt hC) hsome
  | accepted a b heval hchanged hopen hq _ hevt =>
    by_cases hrest : inputState a b = restState
    · obtain ⟨rfl, rfl⟩ := (inputState_inj (x := false) (y := false)).1 hrest
      exact ⟨heval, Ne.symm hchanged, hq, hopen, hevt⟩
    · exact absurd (hevt.trans (emission_of_ne_rest _ _ hrest)) hsome

/-! ### What an event adds to the decoder's record -/

section
variable {e : EdgeIn} {r r' : Run}

/-- A value is recorded where `q` moved, and the Message an `EdgeC` returned. -/
theorem Run.edge_turns_events (hr : r.s.rst = false) (hn : edgeIsR e = false) (he : r.edge e = some r') :
    r'.turns = r.turns ++ (if r'.s.q = r.s.q then [] else [r'.s.q]) ∧
    r'.events = r.events ++ (if edgeIsC e then r'.s.evt.toList else []) := by
  obtain ⟨hedge, hrec⟩ := Run.edge_some he
  rw [hrec, Run.record_s]
  cases hw : e.word with
  | c w => simp [Run.record, edgeIsC, hw, hr]
  | p w =>
    obtain ⟨hq, -⟩ := edgeP_frame hw hedge
    by_cases hWt : r'.s.Wt = r.s.Wt <;> simp [Run.record, edgeIsC, hw, hq, hWt]
  | r w => simp [edgeIsR, hw] at hn

end

/-! ### The levels held (R80) -/

section
variable {a b x y : Bool} {e : EdgeIn} {es : List EdgeIn}

theorem holds_of_evaluates (h : evaluates a b e = true) : holds a b e = true := by
  obtain ⟨w, hw, hop⟩ := evaluates_iff.1 h
  simp [holds, hw, hop]

/-- While levels are held, they are the ones evaluated. -/
theorem levels_of_holds (hhold : holds a b e = true) (heval : evaluates x y e = true) :
    inputState x y = inputState a b := by
  obtain ⟨w, hw, hop⟩ := evaluates_iff.1 heval
  have hlevels : x = a ∧ y = b := by simpa [holds, hw, hop] using hhold
  exact inputState_inj.2 hlevels

theorem edgeIsR_of_holds (h : holds a b e = true) : edgeIsR e = false := by
  cases hw : e.word with
  | c w | p w => simp [edgeIsR, hw]
  | r w => simp [holds, hw] at h

end

/-! ### A turn (R72, R81)

Every run here begins with an accepted transition; what follows keeps the stored state as long as no further one is
accepted, and the timer then counts the `EdgeC`s. -/

/-- From the record `r0` an accepted transition into `new`, then the events `es` with no further one, gave `r`. -/
structure Run.Turned (r0 : Run) (new : BitVec 2) (es : List EdgeIn) (r : Run) : Prop where
  rst_eq : r.s.rst = false
  cfg_eq : r.s.cfg = r0.s.cfg
  q_eq : r.s.q = new
  db_cnt_eq : r.s.db_cnt = r0.s.cfg.W - 1 - countC es
  turns_eq : r.turns = r0.turns ++ [new]
  events_eq : r.events = r0.events ++ (emission r0.s.cfg r0.s.q new).toList

section
variable {a b : Bool} {e : EdgeIn} {es xs ys : List EdgeIn} {new : BitVec 2} {r0 r r' : Run}

/-- An evaluation of new levels with the gate open begins a turn. -/
theorem Run.turned_of_accepted (hr : r0.s.rst = false) (heval : evaluates a b e = true)
    (hchanged : inputState a b ≠ r0.s.q) (hopen : r0.s.db_cnt = 0) (he : r0.edge e = some r) :
    r0.Turned (inputState a b) [] r := by
  have hn := edgeIsR_of_holds (holds_of_evaluates heval)
  have hrst := (Run.edge_rst hn he).trans hr
  obtain ⟨hturns, hevents⟩ := Run.edge_turns_events hr hn he
  cases applyEdge_decoder hr hn (Run.edge_some he).1 with
  | kept hwhy _ _ _ => exact ((hwhy a b heval).elim hchanged (· hopen)).elim
  | accepted x y heval' _ _ hq hcnt hevt =>
    rw [levels_of_holds (holds_of_evaluates heval) heval'] at hq hevt
    rw [hq, if_neg hchanged] at hturns
    rw [edgeIsC_of_evaluates heval, hevt] at hevents
    exact ⟨hrst, Run.edge_cfg he, hq, hcnt, hturns, hevents⟩

/-- An event that keeps `q` extends a turn. -/
theorem Run.Turned.edge (h : r0.Turned new es r) (hn : edgeIsR e = false) (he : r.edge e = some r')
    (hkept : r'.s.q = r.s.q) : r0.Turned new (es ++ [e]) r' := by
  obtain ⟨hrst, hcfg, hq0, hcnt0, hturns0, hevents0⟩ := h
  obtain ⟨hturns, hevents⟩ := Run.edge_turns_events hrst hn he
  cases applyEdge_decoder hrst hn (Run.edge_some he).1 with
  | accepted a b _ hchanged _ hq _ _ => exact absurd (hq.symm.trans hkept) hchanged
  | kept _ hq hcnt hevt =>
    have hcnt' : r'.s.db_cnt = r0.s.cfg.W - 1 - countC (es ++ [e]) := by
      rw [hcnt, hcnt0, Nat.sub_sub, countC_snoc]
    have hevents' : r'.events = r.events := by
      cases hC : edgeIsC e with
      | true => simpa [hC, hevt hC] using hevents
      | false => simpa [hC] using hevents
    rw [if_pos hq, List.append_nil] at hturns
    exact ⟨(Run.edge_rst hn he).trans hrst, (Run.edge_cfg he).trans hcfg, hq.trans hq0, hcnt',
      hturns.trans hturns0, hevents'.trans hevents0⟩

/-- Inside the window no transition is accepted, whatever happens (R81). -/
theorem Run.Turned.window (h : r0.Turned new [] r) (hno : noReset es = true) (hcount : countC es ≤ r0.s.cfg.W - 1)
    (hrun : Run.edges es r = some r') : r0.Turned new es r' := by
  refine Run.edges_keep (P := fun es r => countC es ≤ r0.s.cfg.W - 1 → r0.Turned new es r)
    (ok := fun e => !edgeIsR e) (fun es e r1 r2 hkeep hok he hle => ?_) (fun _ => h) hno hrun hcount
  rw [countC_snoc] at hle
  have hturn := hkeep (by omega)
  refine hturn.edge (not_edgeIsR hok) he (by_contra fun hmoved => ?_)
  obtain ⟨a, b, heval, -, hopen⟩ := evaluates_of_q_ne (not_edgeIsR hok) (Run.edge_some he).1 hmoved
  rw [countC_of_evaluates heval] at hle
  rw [hturn.db_cnt_eq] at hopen
  omega

/-- While the levels equal the stored state no transition is accepted. -/
theorem Run.Turned.hold (h : r0.Turned (inputState a b) xs r) (hhold : ys.all (holds a b) = true)
    (hrun : Run.edges ys r = some r') : r0.Turned (inputState a b) (xs ++ ys) r' := by
  refine Run.edges_keep (P := fun ys r => r0.Turned (inputState a b) (xs ++ ys) r)
    (fun ys e r1 r2 hturn hok he => ?_) (by rwa [List.append_nil]) hhold hrun
  rw [← List.append_assoc]
  refine hturn.edge (edgeIsR_of_holds hok) he (by_contra fun hmoved => ?_)
  obtain ⟨x, y, heval, hq, -⟩ := evaluates_of_q_ne (edgeIsR_of_holds hok) (Run.edge_some he).1 hmoved
  exact hmoved ((hq.trans (levels_of_holds hok heval)).trans hturn.q_eq.symm)

/-- A run that begins with an accepted transition and records no further one is a turn: a record only grows. -/
theorem Run.Turned.of_turns (h : r0.Turned new [] r) (hno : noReset es = true) (hrun : Run.edges es r = some r')
    (hturns : r'.turns = r0.turns ++ [new]) : r0.Turned new es r' := by
  have hkeep : r'.s.rst = false ∧ (r0.Turned new es r' ∨ (r0.turns ++ [new]).length < r'.turns.length) := by
    refine Run.edges_keep (P := fun es r => r.s.rst = false ∧
        (r0.Turned new es r ∨ (r0.turns ++ [new]).length < r.turns.length)) (ok := fun e => !edgeIsR e)
      (fun es e r1 r2 hstep hok he => ?_) ⟨h.rst_eq, .inl h⟩ hno hrun
    obtain ⟨hr, hcase⟩ := hstep
    have hn := not_edgeIsR hok
    obtain ⟨hgrow, -⟩ := Run.edge_turns_events hr hn he
    refine ⟨(Run.edge_rst hn he).trans hr, ?_⟩
    by_cases hq : r2.s.q = r1.s.q
    · rw [if_pos hq, List.append_nil] at hgrow
      rw [hgrow]
      exact hcase.imp_left fun hturn => hturn.edge hn he hq
    · rw [if_neg hq] at hgrow
      have hlong : (r0.turns ++ [new]).length ≤ r1.turns.length :=
        hcase.elim (fun hturn => (congrArg List.length hturn.turns_eq).ge) le_of_lt
      have hlength : r2.turns.length = r1.turns.length + 1 := by rw [hgrow, List.length_append]; rfl
      exact .inr (by omega)
  exact hkeep.2.resolve_right (by rw [hturns]; exact lt_irrefl _)

/-- The gate of a turn is open once its window has passed (R72). -/
theorem Run.Turned.db_cnt_eq_zero_iff (h : r0.Turned new es r) : r.s.db_cnt = 0 ↔ r0.s.cfg.W ≤ countC es + 1 := by
  rw [h.db_cnt_eq]
  omega

/-- A return to rest emits the entry of the state left (R76). -/
theorem Run.Turned.events_of_rest (h : r0.Turned restState es r) :
    r.events = r0.events ++ (evtMessage r0.s.cfg (dirFrom r0.s.cfg r0.s.q)).toList := by
  rw [h.events_eq, emission_rest]

/-- A turn into any other state emits nothing (R83). -/
theorem Run.Turned.events_of_ne_rest (h : r0.Turned new es r) (hne : new ≠ restState) : r.events = r0.events := by
  rw [h.events_eq, emission_of_ne_rest _ _ hne]
  exact List.append_nil _

section
variable (hr : r0.s.rst = false) (heval : evaluates a b e = true) (hchanged : inputState a b ≠ r0.s.q)
  (hopen : r0.s.db_cnt = 0) (hrun : Run.edges (e :: es) r0 = some r)
include hr heval hchanged hopen hrun

/-- An evaluation of new levels with the gate open, and the levels held after it. -/
theorem Run.turned_of_holds (hhold : es.all (holds a b) = true) : r0.Turned (inputState a b) es r := by
  obtain ⟨r1, he, hrest⟩ := Run.edges_cons.1 hrun
  exact (Run.turned_of_accepted hr heval hchanged hopen he).hold hhold hrest

/-- An evaluation of new levels with the gate open, and whatever happens in its window. -/
theorem Run.turned_of_window (hno : noReset es = true) (hcount : countC es ≤ r0.s.cfg.W - 1) :
    r0.Turned (inputState a b) es r := by
  obtain ⟨r1, he, hrest⟩ := Run.edges_cons.1 hrun
  exact (Run.turned_of_accepted hr heval hchanged hopen he).window hno hcount hrest

end

/-- Once the window of a turn has passed, other levels begin the next one. -/
theorem Run.Turned.turn (h : r0.Turned new xs r) (hW : r0.s.cfg.W ≤ countC xs + 1) (heval : evaluates a b e = true)
    (hne : inputState a b ≠ new) (hhold : ys.all (holds a b) = true)
    (hrun : Run.edges (e :: ys) r = some r') : r.Turned (inputState a b) ys r' :=
  Run.turned_of_holds h.rst_eq heval (h.q_eq ▸ hne) (h.db_cnt_eq_zero_iff.2 hW) hrun hhold

end

/-- Settles O23: the turn through its window, and then with the levels held. -/
theorem debounceWindow : Obligations.DebounceWindow := by
  intro s a b e es fs r _ hr heval hchanged hopen hno
  have hwindow {r1 : Run} (hcount : countC es ≤ s.cfg.W - 1) (hrun : Run.edges (e :: es) (Run.start s) = some r1) :
      (Run.start s).Turned (inputState a b) es r1 := Run.turned_of_window hr heval hchanged hopen hrun hno hcount
  refine ⟨fun hcount hrun => ?_, fun hcount hhold hrun => ?_⟩
  · have hturn := hwindow hcount hrun
    exact ⟨hturn.turns_eq, hturn.q_eq, hturn.events_eq⟩
  · obtain ⟨r1, hrun1, hrest⟩ := (Run.edges_append (xs := e :: es)).1 hrun
    have hturn := (hwindow hcount.le hrun1).hold hhold hrest
    exact ⟨hturn.turns_eq, hturn.q_eq, hturn.events_eq⟩

/-- Settles O24: a single recorded value makes the run one turn. -/
theorem gateOpensAfterTheWindow : Obligations.GateOpensAfterTheWindow := by
  refine ⟨fun _ => rfl, fun s a b e es r _ hr heval hchanged hopen hno hrun hturns => ?_⟩
  obtain ⟨r1, he, hrest⟩ := Run.edges_cons.1 hrun
  have hstart := Run.turned_of_accepted (r0 := Run.start s) hr heval hchanged hopen he
  rw [gateOpen_iff]
  exact (hstart.of_turns hno hrest hturns).db_cnt_eq_zero_iff

/-- Settles O25: four turns, the last of them into the rest state. -/
theorem cleanDetentEmitsOnce : Obligations.CleanDetentEmitsOnce := by
  intro s x y e1 e2 e3 e4 h1 h2 h3 h4 hinv hr hq hopen hxy heval1 hhold1 hW1 heval2 hhold2 hW2 heval3 hhold3 hW3
    heval4 hhold4
  have hyx : y ≠ x := hxy.symm
  obtain ⟨r, hrun⟩ := Inv.edges_total (r := Run.start s) hinv ((e1 :: h1) ++ (e2 :: h2) ++ (e3 :: h3) ++ (e4 :: h4))
  obtain ⟨r3, hrun123, hrun4⟩ := Run.edges_append.1 hrun
  obtain ⟨r2, hrun12, hrun3⟩ := Run.edges_append.1 hrun123
  obtain ⟨r1, hrun1, hrun2⟩ := Run.edges_append.1 hrun12
  have hturn1 : (Run.start s).Turned (inputState x y) h1 r1 :=
    Run.turned_of_holds hr heval1 (hq.symm ▸ inputState_ne_rest hxy) hopen hrun1 hhold1
  have hturn2 : r1.Turned (inputState true true) h2 r2 :=
    hturn1.turn hW1 heval2 (inputState_ne_of_ne hxy).symm hhold2 hrun2
  have hturn3 : r2.Turned (inputState y x) h3 r3 :=
    hturn2.turn (by rwa [hturn1.cfg_eq]) heval3 (inputState_ne_of_ne hyx) hhold3 hrun3
  have hturn4 : r3.Turned restState h4 r :=
    hturn3.turn (by rwa [hturn2.cfg_eq, hturn1.cfg_eq]) heval4 (inputState_ne_of_ne hyx).symm hhold4 hrun4
  have hcfg : r3.s.cfg = s.cfg := hturn3.cfg_eq.trans (hturn2.cfg_eq.trans hturn1.cfg_eq)
  have hquiet : r3.events = [] := (hturn3.events_of_ne_rest (inputState_ne_rest hyx)).trans
    ((hturn2.events_of_ne_rest (by decide)).trans (hturn1.events_of_ne_rest (inputState_ne_rest hxy)))
  refine ⟨r, hrun, ?_, ?_, hturn4.q_eq⟩
  · rw [hturn4.turns_eq, hturn3.turns_eq, hturn2.turns_eq, hturn1.turns_eq]
    rfl
  · rw [hturn4.events_of_rest, hquiet, hcfg, hturn3.q_eq, dirFrom_inputState _ hyx]
    rfl

/-- Settles O26: one turn away from rest and one back. -/
theorem returnAfterTheWindowEmitsOnce : Obligations.ReturnAfterTheWindowEmitsOnce := by
  intro s x y e1 e2 es hinv hr hq hopen hxy heval1 hno hcount heval2
  obtain ⟨r, hrun⟩ := Inv.edges_total (r := Run.start s) hinv (e1 :: (es ++ [e2]))
  obtain ⟨r1, hrun1, hrun2⟩ := (Run.edges_append (xs := e1 :: es)).1 hrun
  have hturn1 : (Run.start s).Turned (inputState x y) es r1 :=
    Run.turned_of_window hr heval1 (hq.symm ▸ inputState_ne_rest hxy) hopen hrun1 hno hcount.le
  have hturn2 : r1.Turned restState [] r :=
    hturn1.turn (by rw [hcount]; exact Nat.le_add_of_sub_le le_rfl) heval2 (inputState_ne_of_ne hxy).symm rfl hrun2
  refine ⟨r, hrun, ?_, ?_, hturn2.q_eq⟩
  · rw [hturn2.turns_eq, hturn1.turns_eq]
    rfl
  · rw [hturn2.events_of_rest, hturn1.events_of_ne_rest (inputState_ne_rest hxy), hturn1.q_eq, hturn1.cfg_eq,
      dirFrom_inputState _ hxy]
    rfl

end Sys2Proof.Machine
end

section
/-! PROOFS. The family of 41_bq.md: the two flag tests on Gray and on binary pointers, the synchroniser shift, the
queue's operations and the time to cross. -/

namespace Sys2Proof.Machine

/-! ### The flag tests on Gray and on binary pointers (R91, R94) -/

theorem xor_two_pow_of_lt {n b : Nat} (h : b < 2 ^ n) : b ^^^ 2 ^ n = b + 2 ^ n := by
  have hdiv : (b ^^^ 2 ^ n) / 2 ^ n = 1 := by
    rw [Nat.xor_div_two_pow, Nat.div_eq_of_lt h, Nat.div_self (Nat.two_pow_pos n), Nat.zero_xor]
  have hmod : (b ^^^ 2 ^ n) % 2 ^ n = b := by
    rw [Nat.xor_mod_two_pow, Nat.mod_eq_of_lt h, Nat.mod_self, Nat.xor_zero]
  rw [← Nat.mod_add_div (b ^^^ 2 ^ n) (2 ^ n), hdiv, hmod, Nat.mul_one]

theorem xor_two_pow_of_ge {n b : Nat} (h : 2 ^ n ≤ b) (hb : b < 2 ^ (n + 1)) : b ^^^ 2 ^ n = b - 2 ^ n := by
  have hlt : b - 2 ^ n < 2 ^ n := by omega
  rw [← Nat.xor_left_inj (z := 2 ^ n), Nat.xor_xor_cancel_right, xor_two_pow_of_lt hlt, Nat.sub_add_cancel h]

/-- Pointers lie half their range apart exactly where they differ in the top bit alone. -/
theorem subMod_eq_half_iff {n a b : Nat} (ha : a < 2 ^ (n + 1)) (hb : b < 2 ^ (n + 1)) :
    subMod (n + 1) a b = 2 ^ n ↔ a = b ^^^ 2 ^ n := by
  have hdist : subMod (n + 1) a b = if b ≤ a then a - b else a + 2 ^ (n + 1) - b := by
    rw [subMod, Nat.mod_eq_of_lt hb]
    split
    · rw [show a + (2 ^ (n + 1) - b) = a - b + 2 ^ (n + 1) by omega, Nat.add_mod_right, Nat.mod_eq_of_lt (by omega)]
    · rw [Nat.mod_eq_of_lt (by omega), Nat.add_sub_assoc hb.le]
  have hpow : 2 ^ (n + 1) = 2 * 2 ^ n := Nat.pow_succ'
  rcases Nat.lt_or_ge b (2 ^ n) with hlt | hge
  · rw [hdist, xor_two_pow_of_lt hlt]
    split <;> omega
  · rw [hdist, xor_two_pow_of_ge hge hb]
    split <;> omega

/-- The Gray code of one bit is that bit and the one below it. -/
theorem gray_two_pow_succ (n : Nat) : gray (2 ^ (n + 1)) = 2 ^ (n + 1) + 2 ^ n := by
  have hbelow : 2 ^ (n + 1) >>> 1 = 2 ^ n := by
    rw [Nat.shiftRight_eq_div_pow, Nat.pow_succ, Nat.pow_one, Nat.mul_div_cancel _ Nat.two_pos]
  have hlt : 2 ^ n < 2 ^ (n + 1) := Nat.pow_lt_pow_succ Nat.one_lt_two
  rw [gray, hbelow, Nat.xor_comm, xor_two_pow_of_lt hlt, Nat.add_comm]

theorem gray_eq_gray_iff {n a b : Nat} (ha : a < 2 ^ n) (hb : b < 2 ^ n) : gray a = gray b ↔ a = b := by
  refine ⟨fun h => ?_, congrArg gray⟩
  rw [← ungray_gray ha, h, ungray_gray hb]

/-- Pointers lie half their range apart exactly where their Gray codes differ in the two top bits. -/
theorem subMod_ungray_eq_half_iff {n a g : Nat} (ha : a < 2 ^ (n + 2)) (hg : g < 2 ^ (n + 2)) :
    subMod (n + 2) a (ungray (n + 2) g) = 2 ^ (n + 1) ↔ gray a = g ^^^ (2 ^ (n + 1) + 2 ^ n) := by
  have hu : ungray (n + 2) g < 2 ^ (n + 2) := ungray_lt (n + 2) g
  have hflip : ungray (n + 2) g ^^^ 2 ^ (n + 1) < 2 ^ (n + 2) :=
    Nat.xor_lt_two_pow hu (Nat.pow_lt_pow_succ Nat.one_lt_two)
  rw [subMod_eq_half_iff ha hu, ← gray_eq_gray_iff ha hflip, ← gray_xor, gray_ungray hg, gray_two_pow_succ]

/-- Settles O37: a consistent depth is half the range of the pointers, which have at least two bits. -/
theorem fullTestOnGrayCodes : Obligations.FullTestOnGrayCodes := by
  intro s hcfg hwbin hwgray hwq2
  obtain ⟨-, -, hdepth, hAW⟩ := consistent_parts hcfg
  obtain ⟨n, hn⟩ : ∃ n, s.cfg.AW = n + 1 := Nat.exists_eq_succ_of_ne_zero fun h => by rw [h] at hAW; omega
  have hPW : s.cfg.PW = n + 2 := congrArg (· + 1) hn
  rw [hPW] at hwbin hwq2
  rw [wfull_iff, hwgray, ← hAW, hn, hPW]
  exact subMod_ungray_eq_half_iff hwbin hwq2

/-- Settles O38: equal Gray codes are of equal pointers, and `ungray` undoes the Gray code. -/
theorem emptyTestOnBinaryPointers : Obligations.EmptyTestOnBinaryPointers := by
  intro s hrbin hrgray hrq2
  rw [rempty_iff, hrgray, ← gray_eq_gray_iff hrbin (ungray_lt _ _), gray_ungray hrq2]

/-! ### The synchroniser shift (R97, R98, R99) -/

theorem capR_eq_ite (s : State) :
    capR s = if s.r_fresh = true ∧ s.draw = true then gray (subMod s.cfg.PW s.rbin 1) else s.rgray := by
  simp [capR]

theorem capW_eq_ite (s : State) :
    capW s = if s.w_fresh = true ∧ s.draw = true then gray (subMod s.cfg.PW s.wbin 1) else s.wgray := by
  simp [capW]

/-- Settles O39: on both branches of its slot an edge ends in the shift, which reads nothing the slot writes. -/
theorem synchroniserAtEveryEdge : Obligations.SynchroniserAtEveryEdge := by
  refine fun s t d hr => ⟨fun w he => ?_, fun w he => ?_⟩
  · have hcap := capR_eq_ite (s.setDraw d)
    rcases exec_writeOp_next (edgeP_next rfl hr he) with rfl | ⟨b, -, -, rfl⟩
    · exact ⟨rfl, hcap, rfl, by simp⟩
    · exact ⟨rfl, hcap, rfl, by simp⟩
  · have hcap := capW_eq_ite (s.setDraw d)
    obtain ⟨u, hu, hread⟩ := edgeC_next rfl hr he
    obtain ⟨q, n, ev, rfl, -⟩ := exec_qdecOp_next hu
    rcases exec_readOp_next hread with ⟨r, -, rfl, -⟩ | ⟨b, -, -, -, rfl⟩
    · exact ⟨rfl, hcap, rfl, by simp⟩
    · exact ⟨rfl, hcap, rfl, by simp⟩

/-- Settles O51: the third receiving edge brings a total into the second stage. -/
theorem crossingTakesAtMostThreeEdges : Obligations.CrossingTakesAtMostThreeEdges := by
  intro s es r h hr hno hrun
  obtain ⟨-, -, hwrite, hread⟩ := crossing_of_edges (r0 := Run.start s) h hr le_rfl le_rfl hno hrun
  exact ⟨hwrite.second, hread.second⟩

/-! ### The operations (R92, R93, R95, R96) -/

theorem shiftP_eq (s : State) : s.shiftP = { s with
    wq2_rgray := s.wq1_rgray
    wq1_rgray := if s.r_fresh = true ∧ s.draw = true then gray (subMod s.cfg.PW s.rbin 1) else s.rgray
    r_fresh := false } := by
  rw [State.shiftP, capR_eq_ite]

theorem shiftC_eq (s : State) : s.shiftC = { s with
    rq2_wgray := s.rq1_wgray
    rq1_wgray := if s.w_fresh = true ∧ s.draw = true then gray (subMod s.cfg.PW s.wbin 1) else s.wgray
    w_fresh := false } := by
  rw [State.shiftC, capW_eq_ite]

/-- Settles O27: accepted or dropped by `wfull`, then the shift. -/
theorem pushFollowsItsRule : Obligations.PushFollowsItsRule := by
  refine fun s d => ⟨fun w hen hdata => ?_, fun hroom => ?_, fun hfull => ?_⟩
  · rw [writeOp_of_wr_en hen, hdata]
  · have hroom : wfull s = false := decide_eq_false hroom
    rw [exec_push_accepted s d hroom, shiftP_eq]
    rfl
  · have hfull : wfull s = true := decide_eq_true hfull
    rw [exec_push_dropped s d hfull, shiftP_eq]

/-- Settles O28: the shift alone. -/
theorem wnopFollowsItsRule : Obligations.WnopFollowsItsRule := by
  refine fun s => ⟨fun w hen => writeOp_of_no_wr_en hen, ?_⟩
  rw [exec_wnop, shiftP_eq]

/-- Settles O29: a byte or "empty" by `rempty`, then the shift. -/
theorem popFollowsItsRule : Obligations.PopFollowsItsRule := by
  refine fun s => ⟨fun w hen => readOp_of_rd_en hen, fun b hsees hcell => ?_, fun hnone => ?_⟩
  · have hsees : rempty s = false := decide_eq_false hsees
    rw [exec_pop_byte s b hsees hcell, shiftC_eq]
    rfl
  · have hnone : rempty s = true := decide_eq_true hnone
    rw [exec_pop_empty s hnone, shiftC_eq]
    rfl

/-- Settles O31: no result, the shift alone; the read ports are those of any cycle with the pin at 0. -/
theorem rnopFollowsItsRule : Obligations.RnopFollowsItsRule := by
  refine fun s => ⟨fun w hen => readOp_of_no_rd_en hen, fun hr => ?_, ?_⟩
  · have hports : rdEmpty s = true ↔ s.rgray = s.rq2_wgray := by rw [rdEmpty_of_released hr, rempty_iff]
    exact ⟨hports, fun hsees => rdData_of_not_empty (Bool.eq_false_iff.2 (mt hports.1 hsees))⟩
  · rw [exec_rnop, shiftC_eq]
    rfl

end Sys2Proof.Machine
end

section
/-! PROOFS. The family of 60_exceptions.md: no stop, the silent drop of an overflow, and the two slots of one `EdgeC`. -/

namespace Sys2Proof.Machine

/-! ### No stop (R110) -/

/-- Under valid parameters every step goes on, and keeps what the next one needs. -/
theorem Inv.step_total {s : State} (h : Inv s) (hv : s.cfg.valid = true) :
    ∃ t, step s = .next t ∧ Inv t ∧ t.cfg.valid = true := by
  obtain ⟨t, ht⟩ := h.takeEdge.applyEdge_total s.nextEdge
  have hstep : step s = .next t := by rw [step_eq s hv, ht]
  have hcfg : t.cfg = s.cfg := parametersNeverChange s t hstep
  exact ⟨t, hstep, h.takeEdge.applyEdge ht, hcfg ▸ hv⟩

theorem Inv.steps_total (n : Nat) {s : State} (h : Inv s) (hv : s.cfg.valid = true) :
    ∃ t, steps n s = .next t ∧ Inv t := by
  induction n generalizing s with
  | zero => exact ⟨s, rfl, h⟩
  | succ n ih =>
    obtain ⟨u, hu, hinv, hvalid⟩ := h.step_total hv
    rw [steps, hu, andThen_of_next]
    exact ih hinv hvalid

/-- Settles O42: one event, one step, and by induction any number of steps. -/
theorem noStepEverStops : Obligations.NoStepEverStops := by
  refine ⟨fun e s h => ?_, fun s h hv => ?_, fun n s h hv => h.steps_total n hv⟩
  · obtain ⟨t, ht⟩ := h.applyEdge_total e
    exact ⟨t, ht, h.applyEdge ht⟩
  · obtain ⟨t, ht, -⟩ := h.step_total hv
    exact ⟨t, ht⟩

/-! ### Overflow (R111, R104) -/

/-- Settles O50: a dropped PUSH is the shift alone; an accepted one writes a cell less than a full turn past every
stored byte's. -/
theorem overflowIsASilentDrop : Obligations.OverflowIsASilentDrop := by
  intro s t w d h hr hen he
  obtain ⟨-, -, -, -, hbound, -⟩ := viewsStayInOrder t (h.applyEdge he)
  have hpush := edgeP_next rfl hr he
  rw [writeOp_of_wr_en hen] at hpush
  refine ⟨hbound, fun hfull => ?_, fun hroom => ?_⟩
  · rw [exec_push_dropped (s.setDraw d) _ hfull] at hpush
    cases hpush
    rfl
  · rw [exec_push_accepted (s.setDraw d) _ hroom] at hpush
    cases hpush
    have hcell : writeAddr (s.setDraw d) = s.Wt % s.cfg.fifo_depth := h.counted.writeAddr_eq
    have hlt := h.wt_lt_of_room hroom
    obtain ⟨hrs, hrs1, -⟩ := h.counted.order
    refine ⟨rfl, ?_, fun k hstored hk => ?_⟩ <;> rw [State.shiftP_mem, State.setWrite_mem, hcell]
    · exact Memory.read_write_same _ _ _
    · exact Memory.read_write_other _ _ _ _ (mod_ne_of_lt hk (by omega))

/-! ### The two slots of one `EdgeC` (R115 a) -/

/-- What a QDEC-slot operation assigns depends on the decoder alone. -/
theorem exec_qdecOp_of_decoderPart_eq {w : BitVec 4} {s t : State} {q : BitVec 2} {n : Nat} {ev : Option Message}
    (hpart : t.decoderPart = s.decoderPart) (h : exec (qdecOp w) s = .next (s.setQdec q n ev)) :
    exec (qdecOp w) t = .next (t.setQdec q n ev) := by
  obtain ⟨q', n', ev', hx, -⟩ := exec_qdecOp w t
  have hsame := respectsPart_of_local (exec_qdecOp_decoderPart w) hpart hx h
  obtain ⟨-, hq, hn, -, hev⟩ := (decoderPart_eq_iff _ _).1 hsame
  simp only [State.setQdec_q, State.setQdec_db_cnt, State.setQdec_evt] at hq hn hev
  rw [hx, hq, hn, hev]

/-- A read-slot operation reads nothing of the decoder, and hands on what stands there; a stop included. -/
theorem exec_readOp_setQdec (w : BitVec 4) (s : State) (q : BitVec 2) (n : Nat) (ev : Option Message) :
    exec (readOp w) (s.setQdec q n ev) = andThen (exec (readOp w) s) (fun t => .next (t.setQdec q n ev)) := by
  rcases readOp_cases w with hop | hop <;> rw [hop]
  · cases he : rempty s with
    | true =>
      rw [exec_pop_empty s he]
      exact exec_pop_empty (s.setQdec q n ev) he
    | false =>
      cases hb : s.mem.read (readAddr s) with
      | some b =>
        rw [exec_pop_byte s b he hb]
        exact exec_pop_byte (s.setQdec q n ev) b he hb
      | none =>
        rw [exec_pop_unwritten s he hb]
        exact exec_pop_unwritten (s.setQdec q n ev) he hb
  · rfl

/-- Settles O55: in either order the read slot runs, and then the decoder is assigned what it computes from its own
registers. -/
theorem slotsOfAnEdgeCommute : Obligations.SlotsOfAnEdgeCommute := by
  intro s qop rop hqop hrop
  obtain ⟨v, rfl⟩ := exists_qdecOp hqop
  obtain ⟨w, rfl⟩ := exists_readOp hrop
  obtain ⟨q, n, ev, hq, -⟩ := exec_qdecOp v s
  rw [hq, andThen_of_next, exec_readOp_setQdec]
  cases ht : exec (readOp w) s with
  | next t => exact (exec_qdecOp_of_decoderPart_eq (exec_readOp_decoderPart w s t ht) hq).symm
  | fault _ | refused _ => rfl

end Sys2Proof.Machine
end

section
/-! PROOFS. The family of 70_reset_and_hazards.md: RESET and its frame, the reset pin held at 1, and the first operations
after reset. -/

namespace Sys2Proof.Machine

/-! ### RESET (R130) -/

/-- Settles O12: `toReset` assigns none of these fields. -/
theorem resetFrame : Obligations.ResetFrame := by
  intro s t h
  rw [exec_reset] at h
  cases h
  exact ⟨fun _ => rfl, rfl, rfl, rfl, rfl, rfl, rfl⟩

/-! ### The reset pin held at 1 (R130) -/

theorem rdEmpty_of_held {s : State} (h : s.rst = true) : rdEmpty s = true := by
  rw [rdEmpty, h, Bool.true_or]

theorem evtPort_of_held {s : State} (h : s.rst = true) (x a b : Bool) : evtPort s x a b = none := by
  simp [evtPort, h]

/-- Settles O11: RESET is `toReset`, which a state of the invariant equals while the pin is 1. -/
theorem resetIsOneAtomicEvent : Obligations.ResetIsOneAtomicEvent := by
  refine fun s => ⟨exec_reset s, fun d => applyWord_reset (s.setDraw d), fun hr => ⟨rdEmpty_of_held hr, ?_, ?_⟩, ?_⟩
  · intro x a b
    rw [evtValid, evtPort_of_held hr, Option.isSome_none]
  · exact fun e hn => applyEdge_held hr hn
  · intro hinv hr
    rw [hinv.held hr]
    simp

/-! ### The levels held at the stored state (R133) -/

/-- The decoder of `r` stands where it stood at `r0`, and nothing was added to its record. -/
structure Run.Rests (r0 r : Run) : Prop where
  rst_eq : r.s.rst = false
  q_eq : r.s.q = r0.s.q
  turns_eq : r.turns = r0.turns
  events_eq : r.events = r0.events

section
variable {a b : Bool} {e : EdgeIn} {es : List EdgeIn} {r0 r r' : Run}

/-- An event that evaluates no other levels than the stored state's changes nothing of it. -/
theorem Run.Rests.edge (h : r0.Rests r) (hq : r0.s.q = inputState a b) (hhold : holds a b e = true)
    (he : r.edge e = some r') : r0.Rests r' := by
  obtain ⟨hr, hq0, hturns0, hevents0⟩ := h
  have hn := edgeIsR_of_holds hhold
  obtain ⟨hturns, hevents⟩ := Run.edge_turns_events hr hn he
  cases applyEdge_decoder hr hn (Run.edge_some he).1 with
  | accepted x y heval hchanged _ _ _ _ =>
    exact absurd ((levels_of_holds hhold heval).trans (hq0.trans hq).symm) hchanged
  | kept _ hkept _ hevt =>
    have hnone : (if edgeIsC e then r'.s.evt.toList else []) = [] :=
      ite_eq_right_iff.2 fun hC => by rw [hevt hC, Option.toList_none]
    rw [if_pos hkept, List.append_nil] at hturns
    rw [hnone, List.append_nil] at hevents
    exact ⟨(Run.edge_rst hn he).trans hr, hkept.trans hq0, hturns.trans hturns0, hevents.trans hevents0⟩

theorem Run.rests_of_holds (hr : r0.s.rst = false) (hq : r0.s.q = inputState a b)
    (hhold : es.all (holds a b) = true) (hrun : Run.edges es r0 = some r) : r0.Rests r :=
  Run.edges_keep (P := fun _ r => r0.Rests r) (fun _ _ _ _ hrests hok he => hrests.edge hq hok he)
    ⟨hr, rfl, rfl, rfl⟩ hhold hrun

/-- Where no byte is presented to an empty queue, none is stored and none comes out: no more are popped than stored. -/
theorem Run.Extends.eq_of_no_push (h : r0.Extends es r) (hempty : r0.s.Wt = r0.s.Rt) (hnone : presented es = []) :
    r.accepted = r0.accepted ∧ r.popped = r0.popped := by
  obtain ⟨hinv, -, -, as, bs, has, hbs, hsub, hWt, hRt⟩ := h
  obtain ⟨-, -, hrtws, hws, hws1, -⟩ := hinv.counted.order
  rw [hnone, List.sublist_nil] at hsub
  subst hsub
  rw [List.length_nil] at hWt
  have hpopped : bs = [] := List.eq_nil_of_length_eq_zero (by omega)
  rw [has, hbs, hpopped, List.append_nil, List.append_nil]
  exact ⟨rfl, rfl⟩

end

/-! ### The first operations after reset (R133) -/

/-- Settles O13: the first new levels meet an open gate; levels held at rest, or a queue no byte was presented to, leave
the record as it starts. -/
theorem firstOperationsAfterReset : Obligations.FirstOperationsAfterReset := by
  intro c hc
  have hinv := invariantHoldsAfterReset c hc
  refine ⟨fun a b hne => ?_, fun es hhold => ?_, fun es hno hnone => ?_⟩
  · exact ⟨_, exec_qstep_accepted (State.resetWith c) a b hne rfl, rfl, emission_of_ne_rest _ _ hne, rfl⟩
  · obtain ⟨r, hrun⟩ := hinv.edges_total (r := Run.start (State.resetWith c)) es
    obtain ⟨-, -, hturns, hevents⟩ := Run.rests_of_holds rfl rfl hhold hrun
    exact ⟨r, hrun, hevents, hturns⟩
  · obtain ⟨r, hrun⟩ := hinv.edges_total (r := Run.start (State.resetWith c)) es
    obtain ⟨haccepted, hpopped⟩ := (Run.extends_of_edges hinv hno hrun).eq_of_no_push rfl hnone
    exact ⟨r, hrun, haccepted, hpopped⟩

end Sys2Proof.Machine
end
